-- ==== Sys2Proof/Word.lean ====
section
/-! DEFINITION. The word types of the machine (spec 20 R100, 10 R22): 32-bit memory words, 40-bit extended-precision
registers, and the plainest arithmetic on them. -/

namespace Sys2Proof

/-- A memory word or a 32-bit register (20 R100). -/
abbrev Word := BitVec 32

/-- An extended-precision register R0–R11: exponent in bits 39–32, mantissa in bits 31–0 (10 R22). -/
abbrev Ext := BitVec 40

/-- A byte of the model's memory. -/
abbrev Byte := BitVec 8

/-- Bit `i` of a vector as a 0/1 value of width one. -/
def bitOf {n : Nat} (v : BitVec n) (i : Nat) : BitVec 1 := BitVec.ofBool (v.getLsbD i)

/-- The integer 1 for true and 0 for false. -/
def intOfBool (b : Bool) : Int := if b then 1 else 0

end Sys2Proof
end

