-- ==== Sys2Proof/Config.lean ====
section
/-! DEFINITION. What an implementation fixes and the source leaves open: constants with no body, which no proof can
evaluate. Each is applied to the model's draw counter (`State.draws`) or to the operands it depends on; the assumption
log says which open point of spec/ each one stands for. -/

namespace Sys2Proof.Config

/-- The free value of a read from a reserved address, an undriven bus or a register with no stated read value
(93 U1, U4; 20 R123). First argument: the draw; second: the address. -/
opaque freeRead : Nat → Word → Word

/-- The free value delivered by a port read that the NMI bus grant aborted (93 U3). -/
opaque abortedRead : Nat → Word

/-- The reserved bits of ST, 31–20, 17 and the emulation bit 16, as a read shows them (10 R29, 93 U1). -/
opaque stReserved : Nat → Word

/-- True when the repeat of a one-instruction block or of RPTS leaves FFFF FFFFh in RC, false when it leaves 0
(93 RC_FINAL, 92 D52). -/
opaque rcFinalMinusOne : Nat → Bool

/-- Whether the decode or read phase update number `i` of an annulled slot instruction happens (93 ANNUL_SIDE_EFFECTS). -/
opaque annulSideEffect : Nat → Nat → Bool

/-- The new ARn of a circular update with BK[15:0] = 0 (93 U32): draw and old ARn. -/
opaque circularNoBlock : Nat → Word → Word

/-- The implementation's choice of entry of the reciprocal table (92 D60); used through `Sys2Proof.rcpfEntry`, which
confines it to the entries that meet the stated error bound. -/
opaque rcpfChoice : BitVec 9 → Nat

/-- The implementation's choice of entry of the reciprocal-square-root table (92 D60). -/
opaque rsqrfChoice : BitVec 9 → Nat

/-- RSQRF of a negative number: any value (93 U36). First argument: the draw. -/
opaque rsqrfNegative : Nat → Ext → Ext

/-- The boot ROM words where the host supplies no image of them (92 D66, 93 BOOT_ROM_IMAGE), by word address 0–0FFFh. -/
opaque bootRom : BitVec 12 → Word

/-- The depth of the UART FIFOs beyond 14 characters; used through `Sys2Proof.uartDepth`, which bounds it to 14–31
(66 R622). -/
opaque uartDepthChoice : Nat

/-- Which strobe covers an address while STRB ACTIVE holds a reserved code (20 R121): true for STRB1. -/
opaque reservedStrobe : Nat → Bool

/-- Register contents the boot loader leaves behind (70 R713): draw and register number. -/
opaque loaderLeftover : Nat → Nat → Ext

/-- Values the attached Ethernet PHY or the line side returns for a read-only MAC register (66 R575): draw and address. -/
opaque ethernetReadOnly : Nat → Word → BitVec 16

/-- The upper sixteen bits of a MAC-side Ethernet register, read as unspecified (66 R570): draw and address. -/
opaque ethernetUpper : Nat → Word → BitVec 16

/-- Whether the first octet of a packet's word in the Ethernet RAM is its bits 7–0, else its bits 31–24: not stated (log 36). -/
opaque ethernetLowFirst : Bool

/-- The octets the Ethernet MAC pads a frame with, by their place (66 R572, which states no value). -/
opaque ethernetPad : Nat → Byte

/-- The four octets of the CRC of a frame, the first in bits 7–0 (66 R572, which states no value). -/
opaque ethernetCrc : List Byte → Word

/-- What a pad mode of the FTPP overrides stands for, as bits 7–5 of MAC2 (66 R580, which lists no codes). -/
opaque ethernetPadMode : BitVec 2 → BitVec 3

/-- Whether the MAC takes the CRC off a packet that comes back in loop-back (66 R571, R582, which do not say). -/
opaque ethernetStripsCrc : Bool

/-- What the 1553 device reads where an address of its own names a cell past BFFh, the last one it has (66 R602, R610). -/
opaque milBeyond : BitVec 12 → BitVec 16

/-- Bits 15–5 of the built-in-test word that the 1553 terminal returns on TRBCW, for the code in bits 4–0: 66 R611 gives those bits
only (DESIGN CHOICE, log 38). -/
opaque milTestUpper : BitVec 5 → BitVec 11

/-- The message type TS of SWM for a command word that is of none of the listed types (66 R611; log 38). -/
opaque milTypeUnlisted : BitVec 16 → BitVec 4

/-! What the boot listing's lost tables hold (70 R715; log 7). -/

/-- The words of the ten receive descriptors of the Ethernet path, as offsets into the Ethernet RAM. -/
opaque ethernetBootStores : List (BitVec 14 × Word)

/-- The byte address of the first of them. -/
opaque ethernetBootRing : Word

/-- The words of a frame in a receive buffer that come before its payload. -/
opaque ethernetHeader : Nat

/-- The words of the frame that reports the number of words received, with its descriptor, as offsets into the RAM. -/
opaque ethernetReport : Nat → List (BitVec 14 × Word)

/-- The byte address of that descriptor. -/
opaque ethernetReportRing : Word

/-- The address of the loader's own vector table. -/
opaque loaderVectors : Word

/-- The return address of an interrupt of the loader: the draw. -/
opaque loaderAddress : Nat → Word

/-- Whether BUFPT of a USB endpoint counts bytes, else words, of the USB RAM (66 R594, which states no unit). -/
opaque usbPointerBytes : Bool

/-- The descriptors the USB path writes, as offsets into the USB RAM. -/
opaque usbBootDescriptors : List (BitVec 14 × Word)

/-- The registers with which it initialises the endpoints, as offsets from 0060 0000h. -/
opaque usbBootRegisters : List (BitVec 9 × Word)

end Sys2Proof.Config
end

