-- ==== Sys2Proof/Syntax.lean ====
section
/-! DEFINITION. The instructions as terms: one constructor of `Instr` per mnemonic of spec/opcode_table.json. Rows of one
mnemonic that differ only in the addressing field (type 1 and 2 of a three-operand row, G of a store, the two forms of
RPTB) are operand forms of its constructor. -/

namespace Sys2Proof

/-- The registers of the main register file (10 R21). `r n` is R0–R11, `ar n` is AR0–AR7. -/
inductive Reg where
  | r (n : Fin 12) | ar (n : Fin 8)
  | dp | ir0 | ir1 | bk | sp | st | die | iie | iif | rs | re | rc
deriving DecidableEq, Repr

/-- An extended-precision register R0–R11, the register operands of floating-point instructions (41 R262). -/
abbrev FReg := Fin 12

/-- R0–R7, the register operands of parallel instructions (45 R440). -/
abbrev PReg := Fin 8

/-- The expansion register file (10 R48). -/
inductive XReg where | ivtp | tvtp
deriving DecidableEq, Repr

/-- The twenty condition codes (30 R190). -/
inductive Cond where
  | u | lo | ls | hi | hs | eq | ne | lt | le | gt | ge | nv | v | nuf | uf | nlv | lv | nluf | luf | zuf
deriving DecidableEq, Repr

/-- What an indirect operand adds to ARn: the displacement, IR0 or IR1 (mod bits 4–3; 40 R211). -/
inductive Index where | disp | ir0 | ir1
deriving DecidableEq, Repr

/-- Mod bits 2–0 of the indexed modes (40 R211), in order 000–111. -/
inductive Step where
  | preAdd | preSub | preAddModify | preSubModify | postAdd | postSub | postAddCirc | postSubCirc
deriving DecidableEq, Repr

/-- The 26 indirect modes: the indexed ones, `*ARn` (11000) and `*ARn++(IR0)B` (11001) (40 R211). -/
inductive Mode where
  | indexed (x : Index) (m : Step) | plain | bitRev
deriving DecidableEq, Repr

/-- An indirect operand without a displacement field: mode and auxiliary register (30 R178, R182, R183). -/
structure Ind where
  mode : Mode
  n : Fin 8
deriving DecidableEq, Repr

/-- A memory operand of the general group: direct, or indirect with its 8-bit displacement field (30 R175). -/
inductive Mem where
  | dir (a : BitVec 16)
  | ind (i : Ind) (d : BitVec 8)
deriving DecidableEq, Repr

/-- The source operand of the general group over a register class `ρ` (30 R175): G = 00, 01/10 or 11. -/
inductive Src (ρ : Type) where
  | reg (r : ρ)
  | mem (m : Mem)
  | imm (v : BitVec 16)
deriving DecidableEq, Repr

/-- A type-2 memory operand `*+ARn(disp)` with a 5-bit displacement (30 R179). -/
structure Disp where
  d : BitVec 5
  n : Fin 8
deriving DecidableEq, Repr

/-- The operand pair (src1, src2) of a three-operand instruction: type 1 with T = 00, 01, 10, 11 (30 R178), then type 2
with T = 00, 01, 10, 11 (30 R179). -/
inductive Tri (ρ : Type) where
  | regReg (a b : ρ)
  | indReg (i : Ind) (b : ρ)
  | regInd (a : ρ) (j : Ind)
  | indInd (i j : Ind)
  | regImm (a : ρ) (k : BitVec 8)
  | regDisp (a : ρ) (d : Disp)
  | dispImm (d : Disp) (k : BitVec 8)
  | dispDisp (d e : Disp)
deriving DecidableEq, Repr

/-- The operand of the conditional-branch group: a register or a 16-bit displacement (30 R186). -/
inductive Target where
  | reg (r : Reg)
  | rel (d : BitVec 16)
deriving DecidableEq, Repr

/-- The operand of RPTB and RPTBD: a 24-bit displacement or a register (43 R371, R373). -/
inductive BlockEnd where
  | rel (d : BitVec 24)
  | reg (r : Reg)
deriving DecidableEq, Repr

/-- The operand of NOP: a register field, which is ignored, or an indirect operand (43 R384). -/
inductive NopSrc where
  | reg (r : Reg)
  | ind (i : Ind) (d : BitVec 8)
deriving DecidableEq, Repr

/-- The source assignment P of a multiply-add pair and its operands (30 R182). -/
structure MulAdd where
  p : BitVec 2
  d1 : Bool
  d2 : Bool
  src1 : PReg
  src2 : PReg
  src3 : Ind
  src4 : Ind
deriving DecidableEq, Repr

/-- The operands of a one-source operation with a store (30 R183): src2 → dst1 in parallel with src3 → dst2. -/
structure ParStore where
  dst1 : PReg
  src3 : PReg
  dst2 : Ind
  src2 : Ind
deriving DecidableEq, Repr

/-- The operands of a two-source operation with a store: as `ParStore`, with the register source src1. -/
structure ParStore3 where
  dst1 : PReg
  src1 : PReg
  src3 : PReg
  dst2 : Ind
  src2 : Ind
deriving DecidableEq, Repr

/-- Two parallel loads (45 R465): src1 → dst1 and src2 → dst2. -/
structure ParLoads where
  dst2 : PReg
  dst1 : PReg
  src1 : Ind
  src2 : Ind
deriving DecidableEq, Repr

/-- Two parallel stores (45 R459): src1 → dst1 and src2 → dst2. -/
structure ParStores where
  src2 : PReg
  src1 : PReg
  dst1 : Ind
  dst2 : Ind
deriving DecidableEq, Repr

/-- The instructions of spec/opcode_table.json. -/
inductive Instr where
  -- load and store (40)
  | lda (dst : Reg) (src : Src Reg)
  | lde (dst : FReg) (src : Src FReg)
  | ldep (dst : Reg) (src : XReg)
  | ldf (dst : FReg) (src : Src FReg)
  | ldfCond (c : Cond) (dst : FReg) (src : Src FReg)
  | ldhi (dst : Reg) (v : BitVec 16)
  | ldi (dst : Reg) (src : Src Reg)
  | ldiCond (c : Cond) (dst : Reg) (src : Src Reg)
  | ldm (dst : FReg) (src : Src FReg)
  | ldp (v : BitVec 16)
  | ldpe (dst : XReg) (src : Reg)
  | ldpk (v : BitVec 16)
  | pop (dst : Reg)
  | popf (dst : FReg)
  | push (src : Reg)
  | pushf (src : FReg)
  | stf (src : FReg) (dst : Mem)
  | sti (src : Reg) (dst : Mem)
  | stik (k : BitVec 5) (dst : Mem)
  -- two-operand arithmetic (41)
  | absf (dst : FReg) (src : Src FReg)
  | absi (dst : Reg) (src : Src Reg)
  | addc (dst : Reg) (src : Src Reg)
  | addf (dst : FReg) (src : Src FReg)
  | addi (dst : Reg) (src : Src Reg)
  | and (dst : Reg) (src : Src Reg)
  | andn (dst : Reg) (src : Src Reg)
  | ash (dst : Reg) (src : Src Reg)
  | cmpf (dst : FReg) (src : Src FReg)
  | cmpi (dst : Reg) (src : Src Reg)
  | fix (dst : Reg) (src : Src FReg)
  | float (dst : FReg) (src : Src FReg)
  | frieee (dst : FReg) (src : Mem)
  | lb (b : BitVec 2) (dst : Reg) (src : Src Reg)
  | lbu (b : BitVec 2) (dst : Reg) (src : Src Reg)
  | lh (h : BitVec 1) (dst : Reg) (src : Src Reg)
  | lhu (h : BitVec 1) (dst : Reg) (src : Src Reg)
  | lsh (dst : Reg) (src : Src Reg)
  | lwl (b : BitVec 2) (dst : Reg) (src : Src Reg)
  | lwr (b : BitVec 2) (dst : Reg) (src : Src Reg)
  | mb (b : BitVec 2) (dst : Reg) (src : Src Reg)
  | mh (h : BitVec 1) (dst : Reg) (src : Src Reg)
  | mpyf (dst : FReg) (src : Src FReg)
  | mpyi (dst : Reg) (src : Src Reg)
  | mpyshi (dst : Reg) (src : Src Reg)
  | mpyuhi (dst : Reg) (src : Src Reg)
  | negb (dst : Reg) (src : Src Reg)
  | negf (dst : FReg) (src : Src FReg)
  | negi (dst : Reg) (src : Src Reg)
  | norm (dst : FReg) (src : Src FReg)
  | not (dst : Reg) (src : Src Reg)
  | or (dst : Reg) (src : Src Reg)
  | rcpf (dst : FReg) (src : Src FReg)
  | rnd (dst : FReg) (src : Src FReg)
  | rol (dst : Reg)
  | rolc (dst : Reg)
  | ror (dst : Reg)
  | rorc (dst : Reg)
  | rsqrf (dst : FReg) (src : Src FReg)
  | subb (dst : Reg) (src : Src Reg)
  | subc (dst : Reg) (src : Src Reg)
  | subf (dst : FReg) (src : Src FReg)
  | subi (dst : Reg) (src : Src Reg)
  | subrb (dst : Reg) (src : Src Reg)
  | subrf (dst : FReg) (src : Src FReg)
  | subri (dst : Reg) (src : Src Reg)
  | toieee (dst : FReg) (src : Src FReg)
  | tstb (dst : Reg) (src : Src Reg)
  | xor (dst : Reg) (src : Src Reg)
  -- three-operand (42)
  | addc3 (dst : Reg) (t : Tri Reg)
  | addf3 (dst : FReg) (t : Tri FReg)
  | addi3 (dst : Reg) (t : Tri Reg)
  | and3 (dst : Reg) (t : Tri Reg)
  | andn3 (dst : Reg) (t : Tri Reg)
  | ash3 (dst : Reg) (t : Tri Reg)
  | cmpf3 (t : Tri FReg)
  | cmpi3 (t : Tri Reg)
  | lsh3 (dst : Reg) (t : Tri Reg)
  | mpyf3 (dst : FReg) (t : Tri FReg)
  | mpyi3 (dst : Reg) (t : Tri Reg)
  | mpyshi3 (dst : Reg) (t : Tri Reg)
  | mpyuhi3 (dst : Reg) (t : Tri Reg)
  | or3 (dst : Reg) (t : Tri Reg)
  | subb3 (dst : Reg) (t : Tri Reg)
  | subf3 (dst : FReg) (t : Tri FReg)
  | subi3 (dst : Reg) (t : Tri Reg)
  | tstb3 (t : Tri Reg)
  | xor3 (dst : Reg) (t : Tri Reg)
  -- program control (43)
  | bCond (c : Cond) (t : Target)
  | bCondAf (c : Cond) (t : Target)
  | bCondAt (c : Cond) (t : Target)
  | bCondD (c : Cond) (t : Target)
  | br (d : BitVec 24)
  | brd (d : BitVec 24)
  | call (d : BitVec 24)
  | callCond (c : Cond) (t : Target)
  | dbCond (n : Fin 8) (c : Cond) (t : Target)
  | dbCondD (n : Fin 8) (c : Cond) (t : Target)
  | iack (m : Mem)
  | idle
  | idle2
  | laj (d : BitVec 24)
  | lajCond (c : Cond) (t : Target)
  | latCond (c : Cond) (n : BitVec 9)
  | nop (s : NopSrc)
  | retiCond (c : Cond)
  | retiCondD (c : Cond)
  | retsCond (c : Cond)
  | trapCond (c : Cond) (n : BitVec 9)
  | swi
  | rptb (e : BlockEnd)
  | rptbd (e : BlockEnd)
  | rpts (src : Src Reg)
  -- interlocked (44)
  | ldfi (dst : FReg) (m : Mem)
  | ldii (dst : Reg) (m : Mem)
  | sigi (dst : Reg) (m : Mem)
  | stfi (src : FReg) (m : Mem)
  | stii (src : Reg) (m : Mem)
  -- parallel (45)
  | absfStf (o : ParStore)
  | absiSti (o : ParStore)
  | addf3Stf (o : ParStore3)
  | addi3Sti (o : ParStore3)
  | and3Sti (o : ParStore3)
  | ash3Sti (o : ParStore3)
  | fixSti (o : ParStore)
  | floatStf (o : ParStore)
  | frieeeStf (o : ParStore)
  | ldfLdf (o : ParLoads)
  | ldfStf (o : ParStore)
  | ldiLdi (o : ParLoads)
  | ldiSti (o : ParStore)
  | lsh3Sti (o : ParStore3)
  | mpyf3Addf3 (o : MulAdd)
  | mpyf3Stf (o : ParStore3)
  | mpyf3Subf3 (o : MulAdd)
  | mpyi3Addi3 (o : MulAdd)
  | mpyi3Sti (o : ParStore3)
  | mpyi3Subi3 (o : MulAdd)
  | negfStf (o : ParStore)
  | negiSti (o : ParStore)
  | notSti (o : ParStore)
  | or3Sti (o : ParStore3)
  | stfStf (o : ParStores)
  | stiSti (o : ParStores)
  | subf3Stf (o : ParStore3)
  | subi3Sti (o : ParStore3)
  | toieeeStf (o : ParStore)
  | xor3Sti (o : ParStore3)
deriving DecidableEq, Repr

end Sys2Proof
end

