-- ==== Sys2Proof/WellFormed.lean ====
section
/-! DEFINITION. Which terms of `Instr` are instructions of the machine: the operand restrictions of spec/ that the
types of Syntax.lean do not already say. Each check is named; Tests/Slice0.lean shows a term each one refuses. -/

namespace Sys2Proof

/-- LDA loads only AR0–AR7, DP, IR0, IR1, BK and SP, codes 08h–14h (40 R220). -/
def ldaDestination : Reg → Bool
  | .ar _ | .dp | .ir0 | .ir1 | .bk | .sp => true
  | _ => false

/-- A floating-point three-operand instruction has no immediate forms (30 R179, 42 R330). -/
def noImmediate {ρ : Type} : Tri ρ → Bool
  | .regImm _ _ | .dispImm _ _ => false
  | _ => true

/-- `LDI imm,DP` is the row LDP of the table (40 R229), so the term `ldi` never stands for it. -/
def notLdp : Reg → Src Reg → Bool
  | .dp, .imm _ => false
  | _, _ => true

/-- The well-formed instructions. -/
def Instr.wellFormed : Instr → Bool
  | .lda dst _ => ldaDestination dst
  | .ldi dst src => notLdp dst src
  | .addf3 _ t => noImmediate t
  | .cmpf3 t => noImmediate t
  | .mpyf3 _ t => noImmediate t
  | .subf3 _ t => noImmediate t
  | _ => true

end Sys2Proof
end

