-- ==== Sys2Proof/Decode.lean ====
section
/-! DEFINITION. The decoder and the encoder (spec 30 R170–R195): total functions between 32-bit words and instructions.
A word that is no defined encoding is rejected by name (30 R171). Every instruction is one word, so a word's number in
spec/opcode_table.json is the word itself. -/

namespace Sys2Proof

/-- Why a word is no instruction (30 R171). -/
inductive Reject where
  /-- No operation has this code. -/
  | undefinedOpcode
  /-- The operation does not offer this addressing form. -/
  | undefinedAddressing
  /-- Indirect mode 11010–11111 (40 R211). -/
  | undefinedMode
  /-- A field the encoding requires to be zero is not (30 R171). -/
  | nonzeroField
  /-- A register code the operation does not accept (41 R262, 40 R220, R232). -/
  | undefinedRegister
  /-- A condition code with no meaning (30 R190). -/
  | undefinedCondition
deriving DecidableEq, Repr

/-- The field of `n` bits whose lowest bit is bit `lo` of `w`. -/
def field (w : Word) (lo n : Nat) : BitVec n := w.extractLsb' lo n

/-! ### Codes of registers, conditions and modes -/

/-- Register with a given 5-bit code (10 R21); all 32 codes are assigned (30 R172). -/
def regOfCode (c : BitVec 5) : Reg :=
  match c.toNat with
  | 0 => .r 0
  | 1 => .r 1
  | 2 => .r 2
  | 3 => .r 3
  | 4 => .r 4
  | 5 => .r 5
  | 6 => .r 6
  | 7 => .r 7
  | 8 => .ar 0
  | 9 => .ar 1
  | 10 => .ar 2
  | 11 => .ar 3
  | 12 => .ar 4
  | 13 => .ar 5
  | 14 => .ar 6
  | 15 => .ar 7
  | 16 => .dp
  | 17 => .ir0
  | 18 => .ir1
  | 19 => .bk
  | 20 => .sp
  | 21 => .st
  | 22 => .die
  | 23 => .iie
  | 24 => .iif
  | 25 => .rs
  | 26 => .re
  | 27 => .rc
  | 28 => .r 8
  | 29 => .r 9
  | 30 => .r 10
  | _ => .r 11

/-- The 5-bit code of a register (10 R21). -/
def codeOfReg : Reg → BitVec 5
  | .r n => if n.val < 8 then BitVec.ofNat 5 n.val else BitVec.ofNat 5 (n.val + 20)
  | .ar n => BitVec.ofNat 5 (n.val + 8)
  | .dp => 0x10 | .ir0 => 0x11 | .ir1 => 0x12 | .bk => 0x13 | .sp => 0x14 | .st => 0x15 | .die => 0x16
  | .iie => 0x17 | .iif => 0x18 | .rs => 0x19 | .re => 0x1A | .rc => 0x1B

/-- The register operand of a floating-point instruction: only R0–R11 (41 R262). -/
def fregOfCode (c : BitVec 5) : Except Reject FReg :=
  match regOfCode c with
  | .r n => .ok n
  | _ => .error .undefinedRegister

/-- The code of R0–R11. -/
def codeOfFReg (n : FReg) : BitVec 5 := codeOfReg (.r n)

/-- Any register of the main file, as an always accepted register operand. -/
def anyReg (c : BitVec 5) : Except Reject Reg := .ok (regOfCode c)

/-- The expansion registers (10 R48). -/
def xregOfCode (c : BitVec 5) : Except Reject XReg :=
  match c.toNat with
  | 0 => .ok .ivtp
  | 1 => .ok .tvtp
  | _ => .error .undefinedRegister

/-- The code of an expansion register. -/
def codeOfXReg : XReg → BitVec 5
  | .ivtp => 0
  | .tvtp => 1

/-- The condition with a given code (30 R190). -/
def condOfCode (c : BitVec 5) : Except Reject Cond :=
  match c.toNat with
  | 0 => .ok .u
  | 1 => .ok .lo
  | 2 => .ok .ls
  | 3 => .ok .hi
  | 4 => .ok .hs
  | 5 => .ok .eq
  | 6 => .ok .ne
  | 7 => .ok .lt
  | 8 => .ok .le
  | 9 => .ok .gt
  | 10 => .ok .ge
  | 12 => .ok .nv
  | 13 => .ok .v
  | 14 => .ok .nuf
  | 15 => .ok .uf
  | 16 => .ok .nlv
  | 17 => .ok .lv
  | 18 => .ok .nluf
  | 19 => .ok .luf
  | 20 => .ok .zuf
  | _ => .error .undefinedCondition

/-- The code of a condition (30 R190). -/
def codeOfCond : Cond → BitVec 5
  | .u => 0
  | .lo => 1
  | .ls => 2
  | .hi => 3
  | .hs => 4
  | .eq => 5
  | .ne => 6
  | .lt => 7
  | .le => 8
  | .gt => 9
  | .ge => 10
  | .nv => 12
  | .v => 13
  | .nuf => 14
  | .uf => 15
  | .nlv => 16
  | .lv => 17
  | .nluf => 18
  | .luf => 19
  | .zuf => 20

/-- Mod bits 2–0 (40 R211). -/
def stepOfCode (c : BitVec 3) : Step :=
  match c.toNat with
  | 0 => .preAdd | 1 => .preSub | 2 => .preAddModify | 3 => .preSubModify
  | 4 => .postAdd | 5 => .postSub | 6 => .postAddCirc | _ => .postSubCirc

/-- The code of a step. -/
def codeOfStep : Step → BitVec 3
  | .preAdd => 0 | .preSub => 1 | .preAddModify => 2 | .preSubModify => 3
  | .postAdd => 4 | .postSub => 5 | .postAddCirc => 6 | .postSubCirc => 7

/-- The indirect mode with a given mod field (40 R211). -/
def modeOfCode (c : BitVec 5) : Except Reject Mode :=
  match (c.extractLsb' 3 2).toNat, (c.extractLsb' 0 3).toNat with
  | 0, _ => .ok (.indexed .disp (stepOfCode (c.extractLsb' 0 3)))
  | 1, _ => .ok (.indexed .ir0 (stepOfCode (c.extractLsb' 0 3)))
  | 2, _ => .ok (.indexed .ir1 (stepOfCode (c.extractLsb' 0 3)))
  | _, 0 => .ok .plain
  | _, 1 => .ok .bitRev
  | _, _ => .error .undefinedMode

/-- The mod field of an indirect mode (40 R211). -/
def codeOfMode : Mode → BitVec 5
  | .indexed .disp m => 0#2 ++ codeOfStep m
  | .indexed .ir0 m => 1#2 ++ codeOfStep m
  | .indexed .ir1 m => 2#2 ++ codeOfStep m
  | .plain => 0b11000
  | .bitRev => 0b11001

/-- An 8-bit indirect operand: mod in the upper five bits, ARn in the lower three (30 R178). -/
def indOfBits (b : BitVec 8) : Except Reject Ind := do
  let m ← modeOfCode (b.extractLsb' 3 5)
  pure ⟨m, (b.extractLsb' 0 3).toFin⟩

/-- The bits of an indirect operand. -/
def bitsOfInd (i : Ind) : BitVec 8 := codeOfMode i.mode ++ BitVec.ofFin (w := 3) i.n

/-- A type-2 operand byte: displacement in the upper five bits, ARn in the lower three (30 R179). -/
def dispOfBits (b : BitVec 8) : Disp := ⟨b.extractLsb' 3 5, (b.extractLsb' 0 3).toFin⟩

/-- The bits of a type-2 operand. -/
def bitsOfDisp (d : Disp) : BitVec 8 := d.d ++ BitVec.ofFin (w := 3) d.n

/-! ### Operand fields -/

/-- A register in a 16-bit operand field: the upper eleven bits are zero (30 R175). -/
def regOfField {ρ : Type} (dec : BitVec 5 → Except Reject ρ) (s : BitVec 16) : Except Reject ρ :=
  if s.extractLsb' 5 11 = 0 then dec (s.extractLsb' 0 5) else .error .nonzeroField

/-- An indirect operand with its displacement field, in bits 15–0 (30 R175). -/
def indOfField (s : BitVec 16) : Except Reject Mem := do
  let i ← indOfBits (s.extractLsb' 8 8)
  pure (.ind i (s.extractLsb' 0 8))

/-- The source operand of the general group (30 R175). -/
def srcOfField {ρ : Type} (dec : BitVec 5 → Except Reject ρ) (g : BitVec 2) (s : BitVec 16) : Except Reject (Src ρ) :=
  match g.toNat with
  | 0 => do
      let r ← regOfField dec s
      pure (.reg r)
  | 1 => .ok (.mem (.dir s))
  | 2 => do
      let m ← indOfField s
      pure (.mem m)
  | _ => .ok (.imm s)

/-- The G field and operand field of a source operand. -/
def fieldOfSrc {ρ : Type} (enc : ρ → BitVec 5) : Src ρ → BitVec 2 × BitVec 16
  | .reg r => (0, 0#11 ++ enc r)
  | .mem (.dir a) => (1, a)
  | .mem (.ind i d) => (2, bitsOfInd i ++ d)
  | .imm v => (3, v)

/-- A direct or indirect operand, G = 01 or 10 only (40 R236). -/
def memOfField (g : BitVec 2) (s : BitVec 16) : Except Reject Mem :=
  match g.toNat with
  | 1 => .ok (.dir s)
  | 2 => indOfField s
  | _ => .error .undefinedAddressing

/-- The G field and operand field of a memory operand. -/
def fieldOfMem : Mem → BitVec 2 × BitVec 16
  | .dir a => (1, a)
  | .ind i d => (2, bitsOfInd i ++ d)

/-- The G field and operand field of a STIK destination: G = 00 direct, 11 indirect (40 R238). -/
def fieldOfStik : Mem → BitVec 2 × BitVec 16
  | .dir a => (0, a)
  | .ind i d => (3, bitsOfInd i ++ d)

/-- A register operand byte: the code in the low five bits, with the upper three bits zero. Type 1 says so (30 R178); for type
2, where R179 does not, a word with one of them set counts as no defined encoding (DESIGN CHOICE, log 26). -/
def regOfByte {ρ : Type} (dec : BitVec 5 → Except Reject ρ) (b : BitVec 8) : Except Reject ρ :=
  if b.extractLsb' 5 3 = 0 then dec (b.extractLsb' 0 5) else .error .nonzeroField

/-- The operands of a three-operand instruction from its type bit, T and operand bytes (30 R178, R179). `imm` tells
whether the immediate forms exist. -/
def triOfFields {ρ : Type} (dec : BitVec 5 → Except Reject ρ) (imm : Bool) (ty : BitVec 1) (t : BitVec 2)
    (a b : BitVec 8) : Except Reject (Tri ρ) :=
  match ty.toNat, t.toNat with
  | 0, 0 => do
      let x ← regOfByte dec a
      let y ← regOfByte dec b
      pure (.regReg x y)
  | 0, 1 => do
      let i ← indOfBits a
      let y ← regOfByte dec b
      pure (.indReg i y)
  | 0, 2 => do
      let x ← regOfByte dec a
      let j ← indOfBits b
      pure (.regInd x j)
  | 0, _ => do
      let i ← indOfBits a
      let j ← indOfBits b
      pure (.indInd i j)
  | _, 0 => do
      let x ← regOfByte dec a
      if imm then pure (.regImm x b) else .error .undefinedAddressing
  | _, 1 => do
      let x ← regOfByte dec a
      pure (.regDisp x (dispOfBits b))
  | _, 2 => if imm then .ok (.dispImm (dispOfBits a) b) else .error .undefinedAddressing
  | _, _ => .ok (.dispDisp (dispOfBits a) (dispOfBits b))

/-- Type bit, T and operand bytes of a three-operand instruction. -/
def fieldsOfTri {ρ : Type} (enc : ρ → BitVec 5) : Tri ρ → BitVec 1 × BitVec 2 × BitVec 8 × BitVec 8
  | .regReg x y => (0, 0, 0#3 ++ enc x, 0#3 ++ enc y)
  | .indReg i y => (0, 1, bitsOfInd i, 0#3 ++ enc y)
  | .regInd x j => (0, 2, 0#3 ++ enc x, bitsOfInd j)
  | .indInd i j => (0, 3, bitsOfInd i, bitsOfInd j)
  | .regImm x k => (1, 0, 0#3 ++ enc x, k)
  | .regDisp x d => (1, 1, 0#3 ++ enc x, bitsOfDisp d)
  | .dispImm d k => (1, 2, bitsOfDisp d, k)
  | .dispDisp d e => (1, 3, bitsOfDisp d, bitsOfDisp e)

/-- The operand of the conditional-branch group (30 R186). -/
def targetOfFields (b : BitVec 1) (s : BitVec 16) : Except Reject Target :=
  match b.toNat with
  | 0 => do
      let r ← regOfField anyReg s
      pure (.reg r)
  | _ => .ok (.rel s)

/-- The B bit and operand field of a branch target. -/
def fieldsOfTarget : Target → BitVec 1 × BitVec 16
  | .reg r => (0, 0#11 ++ codeOfReg r)
  | .rel d => (1, d)

/-- A field that the encoding requires to be zero (30 R171). -/
def mustBeZero {n : Nat} (v : BitVec n) : Except Reject Unit :=
  if v = 0 then .ok () else .error .nonzeroField

/-! ### The decoder, class by class (30 R195) -/

/-- The class 000 operations whose four addressing forms are all defined and whose operands need no further check. -/
def decodeUniform (op : BitVec 6) (g : BitVec 2) (d : BitVec 5) (s : BitVec 16) : Except Reject Instr :=
  match op.toNat with
  | 0x00 => do return .absf (← fregOfCode d) (← srcOfField fregOfCode g s)
  | 0x01 => do return .absi (regOfCode d) (← srcOfField anyReg g s)
  | 0x02 => do return .addc (regOfCode d) (← srcOfField anyReg g s)
  | 0x03 => do return .addf (← fregOfCode d) (← srcOfField fregOfCode g s)
  | 0x04 => do return .addi (regOfCode d) (← srcOfField anyReg g s)
  | 0x05 => do return .and (regOfCode d) (← srcOfField anyReg g s)
  | 0x06 => do return .andn (regOfCode d) (← srcOfField anyReg g s)
  | 0x07 => do return .ash (regOfCode d) (← srcOfField anyReg g s)
  | 0x08 => do return .cmpf (← fregOfCode d) (← srcOfField fregOfCode g s)
  | 0x09 => do return .cmpi (regOfCode d) (← srcOfField anyReg g s)
  | 0x0A => do return .fix (regOfCode d) (← srcOfField fregOfCode g s)
  | 0x0B => do return .float (← fregOfCode d) (← srcOfField fregOfCode g s)
  | 0x0D => do return .lde (← fregOfCode d) (← srcOfField fregOfCode g s)
  | 0x0E => do return .ldf (← fregOfCode d) (← srcOfField fregOfCode g s)
  | 0x12 => do return .ldm (← fregOfCode d) (← srcOfField fregOfCode g s)
  | 0x13 => do return .lsh (regOfCode d) (← srcOfField anyReg g s)
  | 0x14 => do return .mpyf (← fregOfCode d) (← srcOfField fregOfCode g s)
  | 0x15 => do return .mpyi (regOfCode d) (← srcOfField anyReg g s)
  | 0x16 => do return .negb (regOfCode d) (← srcOfField anyReg g s)
  | 0x17 => do return .negf (← fregOfCode d) (← srcOfField fregOfCode g s)
  | 0x18 => do return .negi (regOfCode d) (← srcOfField anyReg g s)
  | 0x1A => do return .norm (← fregOfCode d) (← srcOfField fregOfCode g s)
  | 0x1B => do return .not (regOfCode d) (← srcOfField anyReg g s)
  | 0x20 => do return .or (regOfCode d) (← srcOfField anyReg g s)
  | 0x22 => do return .rnd (← fregOfCode d) (← srcOfField fregOfCode g s)
  | 0x2D => do return .subb (regOfCode d) (← srcOfField anyReg g s)
  | 0x2E => do return .subc (regOfCode d) (← srcOfField anyReg g s)
  | 0x2F => do return .subf (← fregOfCode d) (← srcOfField fregOfCode g s)
  | 0x30 => do return .subi (regOfCode d) (← srcOfField anyReg g s)
  | 0x31 => do return .subrb (regOfCode d) (← srcOfField anyReg g s)
  | 0x32 => do return .subrf (← fregOfCode d) (← srcOfField fregOfCode g s)
  | 0x33 => do return .subri (regOfCode d) (← srcOfField anyReg g s)
  | 0x34 => do return .tstb (regOfCode d) (← srcOfField anyReg g s)
  | 0x35 => do return .xor (regOfCode d) (← srcOfField anyReg g s)
  | 0x37 => do return .toieee (← fregOfCode d) (← srcOfField fregOfCode g s)
  | 0x39 => do return .rsqrf (← fregOfCode d) (← srcOfField fregOfCode g s)
  | 0x3A => do return .rcpf (← fregOfCode d) (← srcOfField fregOfCode g s)
  | 0x3B => do return .mpyshi (regOfCode d) (← srcOfField anyReg g s)
  | 0x3C => do return .mpyuhi (regOfCode d) (← srcOfField anyReg g s)
  | _ => .error .undefinedOpcode

/-- Class 000, the general two-operand format (30 R175, R195). -/
def decodeGeneral (w : Word) : Except Reject Instr :=
  let op := field w 23 6
  let g := field w 21 2
  let d := field w 16 5
  let s := field w 0 16
  match op.toNat with
  | 0x0C =>
      if w = 0x06000000#32 then .ok .idle
      else if w = 0x06000001#32 then .ok .idle2
      else .error .undefinedOpcode
  | 0x0F => do return .ldfi (← fregOfCode d) (← memOfField g s)
  | 0x10 =>
      if g = 3#2 ∧ d = 0x10#5 then .ok (.ldp s)
      else do return .ldi (regOfCode d) (← srcOfField anyReg g s)
  | 0x11 => do return .ldii (regOfCode d) (← memOfField g s)
  | 0x19 => do
      let _ ← mustBeZero d
      match g.toNat with
      | 0 => return .nop (.reg (← regOfField anyReg s))
      | 2 => return .nop (.ind (← indOfBits (s.extractLsb' 8 8)) (s.extractLsb' 0 8))
      | _ => .error .undefinedAddressing
  | 0x1C => do
      let _ ← mustBeZero (g - 1)
      let _ ← mustBeZero s
      return .pop (regOfCode d)
  | 0x1D => do
      let _ ← mustBeZero (g - 1)
      let _ ← mustBeZero s
      return .popf (← fregOfCode d)
  | 0x1E => do
      let _ ← mustBeZero (g - 1)
      let _ ← mustBeZero s
      return .push (regOfCode d)
  | 0x1F => do
      let _ ← mustBeZero (g - 1)
      let _ ← mustBeZero s
      return .pushf (← fregOfCode d)
  | 0x23 => if g = 3#2 then .ok (.rol (regOfCode d)) else .error .undefinedAddressing
  | 0x24 => if g = 3#2 then .ok (.rolc (regOfCode d)) else .error .undefinedAddressing
  | 0x25 => if g = 3#2 then .ok (.ror (regOfCode d)) else .error .undefinedAddressing
  | 0x26 => if g = 3#2 then .ok (.rorc (regOfCode d)) else .error .undefinedAddressing
  | 0x27 =>
      if d = 0x1B#5 then do return .rpts (← srcOfField anyReg g s)
      else .error .nonzeroField
  | 0x28 => do return .stf (← fregOfCode d) (← memOfField g s)
  | 0x29 => do return .stfi (← fregOfCode d) (← memOfField g s)
  | 0x2A =>
      match g.toNat with
      | 0 => .ok (.stik d (.dir s))
      | 3 => do return .stik d (← indOfField s)
      | _ => do return .sti (regOfCode d) (← memOfField g s)
  | 0x2B => do return .stii (regOfCode d) (← memOfField g s)
  | 0x2C => do return .sigi (regOfCode d) (← memOfField g s)
  | 0x36 => do
      let _ ← mustBeZero d
      return .iack (← memOfField g s)
  | 0x38 => do return .frieee (← fregOfCode d) (← memOfField g s)
  | 0x3D =>
      if ldaDestination (regOfCode d) then do return .lda (regOfCode d) (← srcOfField anyReg g s)
      else .error .undefinedRegister
  | 0x3E => if g = 3#2 ∧ d = 0x10#5 then .ok (.ldpk s) else .error .undefinedAddressing
  | 0x3F => if g = 3#2 then .ok (.ldhi (regOfCode d) s) else .error .undefinedAddressing
  | _ => decodeUniform op g d s

/-- Class 001, the three-operand format (30 R178, R179, R195). -/
def decodeTri (w : Word) : Except Reject Instr :=
  let ty := field w 28 1
  let t := field w 21 2
  let d := field w 16 5
  let a := field w 8 8
  let b := field w 0 8
  match (field w 23 5).toNat with
  | 0 => do return .addc3 (regOfCode d) (← triOfFields anyReg true ty t a b)
  | 1 => do return .addf3 (← fregOfCode d) (← triOfFields fregOfCode false ty t a b)
  | 2 => do return .addi3 (regOfCode d) (← triOfFields anyReg true ty t a b)
  | 3 => do return .and3 (regOfCode d) (← triOfFields anyReg true ty t a b)
  | 4 => do return .andn3 (regOfCode d) (← triOfFields anyReg true ty t a b)
  | 5 => do return .ash3 (regOfCode d) (← triOfFields anyReg true ty t a b)
  | 6 => do
      let _ ← mustBeZero d
      return .cmpf3 (← triOfFields fregOfCode false ty t a b)
  | 7 => do
      let _ ← mustBeZero d
      return .cmpi3 (← triOfFields anyReg true ty t a b)
  | 8 => do return .lsh3 (regOfCode d) (← triOfFields anyReg true ty t a b)
  | 9 => do return .mpyf3 (← fregOfCode d) (← triOfFields fregOfCode false ty t a b)
  | 10 => do return .mpyi3 (regOfCode d) (← triOfFields anyReg true ty t a b)
  | 11 => do return .or3 (regOfCode d) (← triOfFields anyReg true ty t a b)
  | 12 => do return .subb3 (regOfCode d) (← triOfFields anyReg true ty t a b)
  | 13 => do return .subf3 (← fregOfCode d) (← triOfFields fregOfCode false ty t a b)
  | 14 => do return .subi3 (regOfCode d) (← triOfFields anyReg true ty t a b)
  | 15 => do
      let _ ← mustBeZero d
      return .tstb3 (← triOfFields anyReg true ty t a b)
  | 16 => do return .xor3 (regOfCode d) (← triOfFields anyReg true ty t a b)
  | 17 => do return .mpyshi3 (regOfCode d) (← triOfFields anyReg true ty t a b)
  | 18 => do return .mpyuhi3 (regOfCode d) (← triOfFields anyReg true ty t a b)
  | _ => .error .undefinedOpcode

/-- Class 010, the conditional loads (40 R223, R226). -/
def decodeCondLoad (w : Word) : Except Reject Instr := do
  let c ← condOfCode (field w 23 5)
  if field w 28 1 = 0 then
    return .ldfCond c (← fregOfCode (field w 16 5)) (← srcOfField fregOfCode (field w 21 2) (field w 0 16))
  else
    return .ldiCond c (regOfCode (field w 16 5)) (← srcOfField anyReg (field w 21 2) (field w 0 16))

/-- Prefix 0110, 24-bit displacements and SWI (30 R185, 43 R369). -/
def decodeLong (w : Word) : Except Reject Instr :=
  match (field w 24 4).toNat with
  | 0 => .ok (.br (field w 0 24))
  | 1 => .ok (.brd (field w 0 24))
  | 2 => .ok (.call (field w 0 24))
  | 3 => .ok (.laj (field w 0 24))
  | 4 => .ok (.rptb (.rel (field w 0 24)))
  | 5 => .ok (.rptbd (.rel (field w 0 24)))
  | 6 => if field w 0 24 = 0 then .ok .swi else .error .nonzeroField
  | _ => .error .undefinedOpcode

/-- Prefix 01101, the conditional branches (30 R186, 43 R361–R364, R377, R378). -/
def decodeBranch (w : Word) : Except Reject Instr := do
  let t ← targetOfFields (field w 25 1) (field w 0 16)
  let c ← condOfCode (field w 16 5)
  if field w 26 1 = 1 then
    if field w 21 1 = 0 then return .dbCond (field w 22 3).toFin c t
    else return .dbCondD (field w 22 3).toFin c t
  else
    match (field w 21 4).toNat with
    | 0 => return .bCond c t
    | 1 => return .bCondD c t
    | 3 => return .bCondAt c t
    | 5 => return .bCondAf c t
    | _ => .error .undefinedOpcode

/-- Prefix 011100, the conditional calls (43 R376, R382). -/
def decodeCall (w : Word) : Except Reject Instr := do
  let t ← targetOfFields (field w 25 1) (field w 0 16)
  let c ← condOfCode (field w 16 5)
  match (field w 21 4).toNat with
  | 0 => return .callCond c t
  | 1 => return .lajCond c t
  | _ => .error .undefinedOpcode

/-- Prefix 011101, traps and the expansion file (43 R368, R383; 40 R232, R233). -/
def decodeTrap (w : Word) : Except Reject Instr := do
  match (field w 21 5).toNat with
  | 0b00000 =>
      let c ← condOfCode (field w 16 5)
      let _ ← mustBeZero (field w 9 7)
      return .trapCond c (field w 0 9)
  | 0b00100 =>
      let c ← condOfCode (field w 16 5)
      let _ ← mustBeZero (field w 9 7)
      return .latCond c (field w 0 9)
  | 0b10000 =>
      let _ ← mustBeZero (field w 5 11)
      return .ldep (regOfCode (field w 16 5)) (← xregOfCode (field w 0 5))
  | 0b10100 =>
      let _ ← mustBeZero (field w 5 11)
      return .ldpe (← xregOfCode (field w 16 5)) (regOfCode (field w 0 5))
  | _ => .error .undefinedOpcode

/-- Prefix 01111, returns and the register forms of RPTB and RPTBD (43 R366, R367, R371, R373). -/
def decodeReturn (w : Word) : Except Reject Instr := do
  match (field w 21 6).toNat with
  | 0b000000 =>
      let _ ← mustBeZero (field w 0 16)
      return .retiCond (← condOfCode (field w 16 5))
  | 0b000001 =>
      let _ ← mustBeZero (field w 0 16)
      return .retiCondD (← condOfCode (field w 16 5))
  | 0b000100 =>
      let _ ← mustBeZero (field w 0 16)
      return .retsCond (← condOfCode (field w 16 5))
  | 0b001000 =>
      let _ ← mustBeZero (field w 5 16)
      return .rptb (.reg (regOfCode (field w 0 5)))
  | 0b001100 =>
      let _ ← mustBeZero (field w 5 16)
      return .rptbd (.reg (regOfCode (field w 0 5)))
  | _ => .error .undefinedOpcode

/-- Class 011, program control and the expansion file (30 R195). -/
def decodeControl (w : Word) : Except Reject Instr :=
  match (field w 27 2).toNat with
  | 0 => decodeLong w
  | 1 => decodeBranch w
  | 2 => if field w 26 1 = 0 then decodeCall w else decodeTrap w
  | _ => decodeReturn w

/-- Class 100, the multiply-add pairs (30 R182). -/
def decodeMulAdd (w : Word) : Except Reject Instr := do
  let i ← indOfBits (field w 8 8)
  let j ← indOfBits (field w 0 8)
  let o : MulAdd := ⟨field w 24 2, field w 23 1 = 1, field w 22 1 = 1, (field w 19 3).toFin, (field w 16 3).toFin, i, j⟩
  match (field w 26 4).toNat with
  | 0 => return .mpyf3Addf3 o
  | 1 => return .mpyf3Subf3 o
  | 2 => return .mpyi3Addi3 o
  | 3 => return .mpyi3Subi3 o
  | _ => .error .undefinedOpcode

/-- Class 101, the byte and half-word instructions (41 R290–R297). -/
def decodeByte (w : Word) : Except Reject Instr := do
  let s ← srcOfField anyReg (field w 21 2) (field w 0 16)
  let d := regOfCode (field w 16 5)
  let b := field w 23 2
  let h := field w 23 1
  match (field w 25 4).toNat with
  | 0b1000 => return .lb b d s
  | 0b1001 => return .lbu b d s
  | 0b1010 => return .lwl b d s
  | 0b1011 => return .lwr b d s
  | 0b1100 => return .mb b d s
  | 0b1101 => if field w 24 1 = 0 then return .lh h d s else return .lhu h d s
  | 0b1110 => if field w 24 1 = 0 then return .mh h d s else .error .undefinedOpcode
  | _ => .error .undefinedOpcode

/-- Classes 110 and 111, an operation with a store, two loads or two stores (30 R183). -/
def decodeParallel (w : Word) : Except Reject Instr := do
  let e ← indOfBits (field w 8 8)
  let b ← indOfBits (field w 0 8)
  let p := (field w 22 3).toFin
  let q := (field w 19 3).toFin
  let r := (field w 16 3).toFin
  match (field w 25 5).toNat with
  | 0 =>
      let _ ← mustBeZero (field w 19 3)
      return .stfStf ⟨p, r, e, b⟩
  | 1 =>
      let _ ← mustBeZero (field w 19 3)
      return .stiSti ⟨p, r, e, b⟩
  | 2 =>
      let _ ← mustBeZero (field w 16 3)
      return .ldfLdf ⟨p, q, e, b⟩
  | 3 =>
      let _ ← mustBeZero (field w 16 3)
      return .ldiLdi ⟨p, q, e, b⟩
  | 4 =>
      let _ ← mustBeZero (field w 19 3)
      return .absfStf ⟨p, r, e, b⟩
  | 5 =>
      let _ ← mustBeZero (field w 19 3)
      return .absiSti ⟨p, r, e, b⟩
  | 6 => return .addf3Stf ⟨p, q, r, e, b⟩
  | 7 => return .addi3Sti ⟨p, q, r, e, b⟩
  | 8 => return .and3Sti ⟨p, q, r, e, b⟩
  | 9 => return .ash3Sti ⟨p, q, r, e, b⟩
  | 10 =>
      let _ ← mustBeZero (field w 19 3)
      return .fixSti ⟨p, r, e, b⟩
  | 11 =>
      let _ ← mustBeZero (field w 19 3)
      return .floatStf ⟨p, r, e, b⟩
  | 12 =>
      let _ ← mustBeZero (field w 19 3)
      return .ldfStf ⟨p, r, e, b⟩
  | 13 =>
      let _ ← mustBeZero (field w 19 3)
      return .ldiSti ⟨p, r, e, b⟩
  | 14 => return .lsh3Sti ⟨p, q, r, e, b⟩
  | 15 => return .mpyf3Stf ⟨p, q, r, e, b⟩
  | 16 => return .mpyi3Sti ⟨p, q, r, e, b⟩
  | 17 =>
      let _ ← mustBeZero (field w 19 3)
      return .negfStf ⟨p, r, e, b⟩
  | 18 =>
      let _ ← mustBeZero (field w 19 3)
      return .negiSti ⟨p, r, e, b⟩
  | 19 =>
      let _ ← mustBeZero (field w 19 3)
      return .notSti ⟨p, r, e, b⟩
  | 20 => return .or3Sti ⟨p, q, r, e, b⟩
  | 21 => return .subf3Stf ⟨p, q, r, e, b⟩
  | 22 => return .subi3Sti ⟨p, q, r, e, b⟩
  | 23 => return .xor3Sti ⟨p, q, r, e, b⟩
  | 24 =>
      let _ ← mustBeZero (field w 19 3)
      return .toieeeStf ⟨p, r, e, b⟩
  | 25 =>
      let _ ← mustBeZero (field w 19 3)
      return .frieeeStf ⟨p, r, e, b⟩
  | _ => .error .undefinedOpcode

/-- The decoder: every word is an instruction or is rejected by name (30 R195). -/
def decode (w : Word) : Except Reject Instr :=
  match (field w 29 3).toNat with
  | 0 => decodeGeneral w
  | 1 => decodeTri w
  | 2 => decodeCondLoad w
  | 3 => decodeControl w
  | 4 => decodeMulAdd w
  | 5 => decodeByte w
  | _ => decodeParallel w

/-- The instruction the decoder reads from a word numbered as spec/opcode_table.json numbers it; every row has 32 bits. -/
def decodeTableWord (_nbits w : Nat) : Option Instr :=
  match decode (BitVec.ofNat 32 w) with
  | .ok i => some i
  | .error _ => none

/-! ### The encoder -/

/-- General format (30 R175). -/
def encGeneral (op : BitVec 6) (d : BitVec 5) (gs : BitVec 2 × BitVec 16) : Word :=
  0b000#3 ++ op ++ gs.1 ++ d ++ gs.2

/-- Three-operand format (30 R178). -/
def encTri (op : BitVec 5) (d : BitVec 5) (f : BitVec 1 × BitVec 2 × BitVec 8 × BitVec 8) : Word :=
  0b001#3 ++ f.1 ++ op ++ f.2.1 ++ d ++ f.2.2.1 ++ f.2.2.2

/-- Conditional loads (40 R223, R226). -/
def encCondLoad (k : BitVec 1) (c : Cond) (d : BitVec 5) (gs : BitVec 2 × BitVec 16) : Word :=
  0b010#3 ++ k ++ codeOfCond c ++ gs.1 ++ d ++ gs.2

/-- Long-immediate format (30 R185). -/
def encLong (op : BitVec 5) (d : BitVec 24) : Word := 0b011#3 ++ op ++ d

/-- Conditional-branch group: `k` is bit 26, `f` bits 24–21 (30 R186). -/
def encBranch (k : BitVec 1) (f : BitVec 4) (c : Cond) (t : BitVec 1 × BitVec 16) : Word :=
  0b01101#5 ++ k ++ t.1 ++ f ++ codeOfCond c ++ t.2

/-- Conditional calls (43 R376, R382). -/
def encCall (f : BitVec 4) (c : Cond) (t : BitVec 1 × BitVec 16) : Word :=
  0b011100#6 ++ t.1 ++ f ++ codeOfCond c ++ t.2

/-- Traps and expansion-file loads: bits 25–21, 20–16 and 15–0 after the prefix 011101. -/
def encTrap (f : BitVec 5) (c : BitVec 5) (s : BitVec 16) : Word := 0b011101#6 ++ f ++ c ++ s

/-- Returns and register repeats: bits 26–21, 20–16 and 15–0 after the prefix 01111. -/
def encReturn (f : BitVec 6) (c : BitVec 5) (s : BitVec 16) : Word := 0b01111#5 ++ f ++ c ++ s

/-- Multiply-add pairs (30 R182). -/
def encMulAdd (op : BitVec 4) (o : MulAdd) : Word :=
  0b10#2 ++ op ++ o.p ++ BitVec.ofBool o.d1 ++ BitVec.ofBool o.d2 ++ BitVec.ofFin (w := 3) o.src1
    ++ BitVec.ofFin (w := 3) o.src2 ++ bitsOfInd o.src3 ++ bitsOfInd o.src4

/-- Byte and half-word instructions: bits 28–23 after the class 101 (41 R290–R297). -/
def encByte (f : BitVec 6) (d : BitVec 5) (gs : BitVec 2 × BitVec 16) : Word :=
  0b101#3 ++ f ++ gs.1 ++ d ++ gs.2

/-- Parallel format with stores or loads (30 R183). -/
def encParallel (op : BitVec 5) (p q r : PReg) (e b : Ind) : Word :=
  0b11#2 ++ op ++ BitVec.ofFin (w := 3) p ++ BitVec.ofFin (w := 3) q ++ BitVec.ofFin (w := 3) r
    ++ bitsOfInd e ++ bitsOfInd b

/-- A one-source operation with a store. -/
def encStore (op : BitVec 5) (o : ParStore) : Word := encParallel op o.dst1 0 o.src3 o.dst2 o.src2

/-- A two-source operation with a store. -/
def encStore3 (op : BitVec 5) (o : ParStore3) : Word := encParallel op o.dst1 o.src1 o.src3 o.dst2 o.src2

/-- The word of an instruction (30 R195). Bits an encoding ignores are written as zero. -/
def encode : Instr → Word
  | .absf dst src => encGeneral 0x00 (codeOfFReg dst) (fieldOfSrc codeOfFReg src)
  | .absi dst src => encGeneral 0x01 (codeOfReg dst) (fieldOfSrc codeOfReg src)
  | .addc dst src => encGeneral 0x02 (codeOfReg dst) (fieldOfSrc codeOfReg src)
  | .addf dst src => encGeneral 0x03 (codeOfFReg dst) (fieldOfSrc codeOfFReg src)
  | .addi dst src => encGeneral 0x04 (codeOfReg dst) (fieldOfSrc codeOfReg src)
  | .and dst src => encGeneral 0x05 (codeOfReg dst) (fieldOfSrc codeOfReg src)
  | .andn dst src => encGeneral 0x06 (codeOfReg dst) (fieldOfSrc codeOfReg src)
  | .ash dst src => encGeneral 0x07 (codeOfReg dst) (fieldOfSrc codeOfReg src)
  | .cmpf dst src => encGeneral 0x08 (codeOfFReg dst) (fieldOfSrc codeOfFReg src)
  | .cmpi dst src => encGeneral 0x09 (codeOfReg dst) (fieldOfSrc codeOfReg src)
  | .fix dst src => encGeneral 0x0A (codeOfReg dst) (fieldOfSrc codeOfFReg src)
  | .float dst src => encGeneral 0x0B (codeOfFReg dst) (fieldOfSrc codeOfFReg src)
  | .lde dst src => encGeneral 0x0D (codeOfFReg dst) (fieldOfSrc codeOfFReg src)
  | .ldf dst src => encGeneral 0x0E (codeOfFReg dst) (fieldOfSrc codeOfFReg src)
  | .ldm dst src => encGeneral 0x12 (codeOfFReg dst) (fieldOfSrc codeOfFReg src)
  | .lsh dst src => encGeneral 0x13 (codeOfReg dst) (fieldOfSrc codeOfReg src)
  | .mpyf dst src => encGeneral 0x14 (codeOfFReg dst) (fieldOfSrc codeOfFReg src)
  | .mpyi dst src => encGeneral 0x15 (codeOfReg dst) (fieldOfSrc codeOfReg src)
  | .negb dst src => encGeneral 0x16 (codeOfReg dst) (fieldOfSrc codeOfReg src)
  | .negf dst src => encGeneral 0x17 (codeOfFReg dst) (fieldOfSrc codeOfFReg src)
  | .negi dst src => encGeneral 0x18 (codeOfReg dst) (fieldOfSrc codeOfReg src)
  | .norm dst src => encGeneral 0x1A (codeOfFReg dst) (fieldOfSrc codeOfFReg src)
  | .not dst src => encGeneral 0x1B (codeOfReg dst) (fieldOfSrc codeOfReg src)
  | .or dst src => encGeneral 0x20 (codeOfReg dst) (fieldOfSrc codeOfReg src)
  | .rnd dst src => encGeneral 0x22 (codeOfFReg dst) (fieldOfSrc codeOfFReg src)
  | .subb dst src => encGeneral 0x2D (codeOfReg dst) (fieldOfSrc codeOfReg src)
  | .subc dst src => encGeneral 0x2E (codeOfReg dst) (fieldOfSrc codeOfReg src)
  | .subf dst src => encGeneral 0x2F (codeOfFReg dst) (fieldOfSrc codeOfFReg src)
  | .subi dst src => encGeneral 0x30 (codeOfReg dst) (fieldOfSrc codeOfReg src)
  | .subrb dst src => encGeneral 0x31 (codeOfReg dst) (fieldOfSrc codeOfReg src)
  | .subrf dst src => encGeneral 0x32 (codeOfFReg dst) (fieldOfSrc codeOfFReg src)
  | .subri dst src => encGeneral 0x33 (codeOfReg dst) (fieldOfSrc codeOfReg src)
  | .tstb dst src => encGeneral 0x34 (codeOfReg dst) (fieldOfSrc codeOfReg src)
  | .xor dst src => encGeneral 0x35 (codeOfReg dst) (fieldOfSrc codeOfReg src)
  | .toieee dst src => encGeneral 0x37 (codeOfFReg dst) (fieldOfSrc codeOfFReg src)
  | .rsqrf dst src => encGeneral 0x39 (codeOfFReg dst) (fieldOfSrc codeOfFReg src)
  | .rcpf dst src => encGeneral 0x3A (codeOfFReg dst) (fieldOfSrc codeOfFReg src)
  | .mpyshi dst src => encGeneral 0x3B (codeOfReg dst) (fieldOfSrc codeOfReg src)
  | .mpyuhi dst src => encGeneral 0x3C (codeOfReg dst) (fieldOfSrc codeOfReg src)
  | .idle => 0x06000000
  | .idle2 => 0x06000001
  | .ldfi dst m => encGeneral 0x0F (codeOfFReg dst) (fieldOfMem m)
  | .ldi dst src => encGeneral 0x10 (codeOfReg dst) (fieldOfSrc codeOfReg src)
  | .ldp v => encGeneral 0x10 0x10 (3, v)
  | .ldii dst m => encGeneral 0x11 (codeOfReg dst) (fieldOfMem m)
  | .nop (.reg r) => encGeneral 0x19 0 (0, 0#11 ++ codeOfReg r)
  | .nop (.ind i d) => encGeneral 0x19 0 (2, bitsOfInd i ++ d)
  | .pop dst => encGeneral 0x1C (codeOfReg dst) (1, 0)
  | .popf dst => encGeneral 0x1D (codeOfFReg dst) (1, 0)
  | .push src => encGeneral 0x1E (codeOfReg src) (1, 0)
  | .pushf src => encGeneral 0x1F (codeOfFReg src) (1, 0)
  | .rol dst => encGeneral 0x23 (codeOfReg dst) (3, 0)
  | .rolc dst => encGeneral 0x24 (codeOfReg dst) (3, 0)
  | .ror dst => encGeneral 0x25 (codeOfReg dst) (3, 0)
  | .rorc dst => encGeneral 0x26 (codeOfReg dst) (3, 0)
  | .rpts src => encGeneral 0x27 0x1B (fieldOfSrc codeOfReg src)
  | .stf src m => encGeneral 0x28 (codeOfFReg src) (fieldOfMem m)
  | .stfi src m => encGeneral 0x29 (codeOfFReg src) (fieldOfMem m)
  | .sti src m => encGeneral 0x2A (codeOfReg src) (fieldOfMem m)
  | .stik k m => encGeneral 0x2A k (fieldOfStik m)
  | .stii src m => encGeneral 0x2B (codeOfReg src) (fieldOfMem m)
  | .sigi dst m => encGeneral 0x2C (codeOfReg dst) (fieldOfMem m)
  | .iack m => encGeneral 0x36 0 (fieldOfMem m)
  | .frieee dst m => encGeneral 0x38 (codeOfFReg dst) (fieldOfMem m)
  | .lda dst src => encGeneral 0x3D (codeOfReg dst) (fieldOfSrc codeOfReg src)
  | .ldpk v => encGeneral 0x3E 0x10 (3, v)
  | .ldhi dst v => encGeneral 0x3F (codeOfReg dst) (3, v)
  | .addc3 dst t => encTri 0 (codeOfReg dst) (fieldsOfTri codeOfReg t)
  | .addf3 dst t => encTri 1 (codeOfFReg dst) (fieldsOfTri codeOfFReg t)
  | .addi3 dst t => encTri 2 (codeOfReg dst) (fieldsOfTri codeOfReg t)
  | .and3 dst t => encTri 3 (codeOfReg dst) (fieldsOfTri codeOfReg t)
  | .andn3 dst t => encTri 4 (codeOfReg dst) (fieldsOfTri codeOfReg t)
  | .ash3 dst t => encTri 5 (codeOfReg dst) (fieldsOfTri codeOfReg t)
  | .cmpf3 t => encTri 6 0 (fieldsOfTri codeOfFReg t)
  | .cmpi3 t => encTri 7 0 (fieldsOfTri codeOfReg t)
  | .lsh3 dst t => encTri 8 (codeOfReg dst) (fieldsOfTri codeOfReg t)
  | .mpyf3 dst t => encTri 9 (codeOfFReg dst) (fieldsOfTri codeOfFReg t)
  | .mpyi3 dst t => encTri 10 (codeOfReg dst) (fieldsOfTri codeOfReg t)
  | .or3 dst t => encTri 11 (codeOfReg dst) (fieldsOfTri codeOfReg t)
  | .subb3 dst t => encTri 12 (codeOfReg dst) (fieldsOfTri codeOfReg t)
  | .subf3 dst t => encTri 13 (codeOfFReg dst) (fieldsOfTri codeOfFReg t)
  | .subi3 dst t => encTri 14 (codeOfReg dst) (fieldsOfTri codeOfReg t)
  | .tstb3 t => encTri 15 0 (fieldsOfTri codeOfReg t)
  | .xor3 dst t => encTri 16 (codeOfReg dst) (fieldsOfTri codeOfReg t)
  | .mpyshi3 dst t => encTri 17 (codeOfReg dst) (fieldsOfTri codeOfReg t)
  | .mpyuhi3 dst t => encTri 18 (codeOfReg dst) (fieldsOfTri codeOfReg t)
  | .ldfCond c dst src => encCondLoad 0 c (codeOfFReg dst) (fieldOfSrc codeOfFReg src)
  | .ldiCond c dst src => encCondLoad 1 c (codeOfReg dst) (fieldOfSrc codeOfReg src)
  | .br d => encLong 0 d
  | .brd d => encLong 1 d
  | .call d => encLong 2 d
  | .laj d => encLong 3 d
  | .rptb (.rel d) => encLong 4 d
  | .rptbd (.rel d) => encLong 5 d
  | .swi => encLong 6 0
  | .bCond c t => encBranch 0 0 c (fieldsOfTarget t)
  | .bCondD c t => encBranch 0 1 c (fieldsOfTarget t)
  | .bCondAt c t => encBranch 0 3 c (fieldsOfTarget t)
  | .bCondAf c t => encBranch 0 5 c (fieldsOfTarget t)
  | .dbCond n c t => encBranch 1 (BitVec.ofFin (w := 3) n ++ 0#1) c (fieldsOfTarget t)
  | .dbCondD n c t => encBranch 1 (BitVec.ofFin (w := 3) n ++ 1#1) c (fieldsOfTarget t)
  | .callCond c t => encCall 0 c (fieldsOfTarget t)
  | .lajCond c t => encCall 1 c (fieldsOfTarget t)
  | .trapCond c n => encTrap 0b00000 (codeOfCond c) (0#7 ++ n)
  | .latCond c n => encTrap 0b00100 (codeOfCond c) (0#7 ++ n)
  | .ldep dst src => encTrap 0b10000 (codeOfReg dst) (0#11 ++ codeOfXReg src)
  | .ldpe dst src => encTrap 0b10100 (codeOfXReg dst) (0#11 ++ codeOfReg src)
  | .retiCond c => encReturn 0b000000 (codeOfCond c) 0
  | .retiCondD c => encReturn 0b000001 (codeOfCond c) 0
  | .retsCond c => encReturn 0b000100 (codeOfCond c) 0
  | .rptb (.reg r) => encReturn 0b001000 0 (0#11 ++ codeOfReg r)
  | .rptbd (.reg r) => encReturn 0b001100 0 (0#11 ++ codeOfReg r)
  | .mpyf3Addf3 o => encMulAdd 0 o
  | .mpyf3Subf3 o => encMulAdd 1 o
  | .mpyi3Addi3 o => encMulAdd 2 o
  | .mpyi3Subi3 o => encMulAdd 3 o
  | .lb b dst src => encByte (0b1000#4 ++ b) (codeOfReg dst) (fieldOfSrc codeOfReg src)
  | .lbu b dst src => encByte (0b1001#4 ++ b) (codeOfReg dst) (fieldOfSrc codeOfReg src)
  | .lwl b dst src => encByte (0b1010#4 ++ b) (codeOfReg dst) (fieldOfSrc codeOfReg src)
  | .lwr b dst src => encByte (0b1011#4 ++ b) (codeOfReg dst) (fieldOfSrc codeOfReg src)
  | .mb b dst src => encByte (0b1100#4 ++ b) (codeOfReg dst) (fieldOfSrc codeOfReg src)
  | .lh h dst src => encByte (0b11010#5 ++ h) (codeOfReg dst) (fieldOfSrc codeOfReg src)
  | .lhu h dst src => encByte (0b11011#5 ++ h) (codeOfReg dst) (fieldOfSrc codeOfReg src)
  | .mh h dst src => encByte (0b11100#5 ++ h) (codeOfReg dst) (fieldOfSrc codeOfReg src)
  | .stfStf o => encParallel 0 o.src2 0 o.src1 o.dst1 o.dst2
  | .stiSti o => encParallel 1 o.src2 0 o.src1 o.dst1 o.dst2
  | .ldfLdf o => encParallel 2 o.dst2 o.dst1 0 o.src1 o.src2
  | .ldiLdi o => encParallel 3 o.dst2 o.dst1 0 o.src1 o.src2
  | .absfStf o => encStore 4 o
  | .absiSti o => encStore 5 o
  | .addf3Stf o => encStore3 6 o
  | .addi3Sti o => encStore3 7 o
  | .and3Sti o => encStore3 8 o
  | .ash3Sti o => encStore3 9 o
  | .fixSti o => encStore 10 o
  | .floatStf o => encStore 11 o
  | .ldfStf o => encStore 12 o
  | .ldiSti o => encStore 13 o
  | .lsh3Sti o => encStore3 14 o
  | .mpyf3Stf o => encStore3 15 o
  | .mpyi3Sti o => encStore3 16 o
  | .negfStf o => encStore 17 o
  | .negiSti o => encStore 18 o
  | .notSti o => encStore 19 o
  | .or3Sti o => encStore3 20 o
  | .subf3Stf o => encStore3 21 o
  | .subi3Sti o => encStore3 22 o
  | .xor3Sti o => encStore3 23 o
  | .toieeeStf o => encStore 24 o
  | .frieeeStf o => encStore 25 o

end Sys2Proof
end

