-- ==== Sys2Proof/Machine/State.lean ====
section
/-! DEFINITION. The state of one core and of the devices its loads and stores reach (INVENTORY.md, State), the reasons a
step stops, and the state after reset (70 R700–R706). State is plain data; what the model adds to the spec's own state
is said to be the model's in its docstring. -/

namespace Sys2Proof.Machine

/-! ### Why a step stops -/

/-- The faults of the model. The core itself has none (60 R650): each names a place where the source says undefined,
unpredictable or not allowed, and none is an exception of the hardware. All are safe: nothing is claimed of what follows.
A word that is no defined encoding is no fault: it leaves the core in `Phase.stuck` (92 D41). -/
inductive Fault where
  /-- A store to an address the maps call reserved (93 U4). Raised by any store. Safe. -/
  | reservedWrite (a : Word)
  /-- A forbidden instruction in a delay slot (43 R380, 93 U34). Raised by the step. Safe. -/
  | delaySlotRule
  /-- A forbidden instruction at the end of a repeat block or under RPTS (43 R374, 93 U34). Raised by the step. Safe. -/
  | repeatRule
  /-- LDA with the same source and destination register (40 R220, 93 U34). Raised by LDA. Safe. -/
  | ldaSameRegister
deriving DecidableEq, Repr

/-- The refusals of the model. -/
inductive Refusal where
  /-- The instruction has no meaning in this model. Raised by no meaning. Safe. -/
  | notModelled (mnemonic : String)
deriving DecidableEq, Repr

/-! ### Bus cycles (20 R122) and waiting -/

/-- What an access is to the bus and to the commutator: an instruction fetch, a CPU data access, a DMA access, the read of
SIGI, or the access of LDII and STII, which acts on the semaphore of the commutator (20 R122, 44 R430–R433). -/
inductive Access where | plain | interlocked | sigi | program | dma
deriving DecidableEq, Repr

/-- One cycle on an external bus, the global one or the local one: the strobe that covers it, the kind of access, A(30–0),
the word driven on D(31–0) by a write, and whether PAGEx pulses for a new page (20 R121, R122). -/
structure BusCycle where
  isLocal : Bool
  strobe1 : Bool
  access : Access
  address : BitVec 31
  data : Option Word
  page : Bool
deriving DecidableEq, Repr

/-- Why an access has not completed; it is tried again (20 R123, 65 R513, 66 R565, 93 U5, U20). -/
inductive Wait where
  /-- An empty input FIFO or a full output FIFO of a communication port. -/
  | fifo
  /-- The peripheral bus is held by another agent's access to such a FIFO. -/
  | peripheral
  /-- An external bus that is disabled or not ready, or a device the commutator does not connect to this core. -/
  | bus (c : BusCycle)
  /-- A reserved address of the local bus: the interface waits for a ready that nothing returns, without a strobe. -/
  | reserved (k : Access)
  /-- An access of the DMA to such a FIFO, which the bus grant of NMI has ended; it completes when it is tried again. -/
  | granted
  /-- The boot loader polls a port. -/
  | poll
deriving DecidableEq, Repr

/-- What an external bus remembers between cycles: A(30–0) keeps the last address, none in high impedance after reset, and
the page logic the last address under each strobe, none before the first access (20 R121, R122; 70 R704). -/
structure BusState where
  address : Option (BitVec 31)
  page0 : Option (BitVec 31)
  page1 : Option (BitVec 31)
deriving DecidableEq, Repr

/-- What the chip shows outside in one step, in order (00 R12): completed bus cycles, the IACK# pulse with the address of its
read, changes of the lock signals, words, characters and packets sent by ports and devices; a USB packet goes with the
endpoint number of the token it answers.
`milWords` holds the words the 1553 device puts on a bus, as controller or as terminal, `milCode` one burst of its cyclic
output, the code thirty-three times with a command-word or a data-word sync (66 R606). -/
inductive Output where
  | cycle (c : BusCycle)
  | iack (a : Word)
  | lock (isLocal level : Bool)
  | portWord (k : Fin 6) (v : Word)
  | uartByte (b : Byte)
  | ethernetFrame (bytes : Nat) (data : List Word)
  | usbPacket (endpoint : BitVec 4) (bytes : Nat) (data : List Word)
  | milWords (reserveLine : Bool) (words : List (BitVec 16))
  | milCode (reserveLine dataSync : Bool) (code : BitVec 16)
deriving DecidableEq, Repr

/-! ### Sequencing -/

/-- How many delay slots are still to be executed (43 R380). -/
inductive Slots where | three | two | one
deriving DecidableEq, Repr

/-- Which delayed instruction is in flight; some restrict their slots (43 R366, R374, R383). -/
inductive DelayKind where | branch | trap | retid | rptbd
deriving DecidableEq, Repr

/-- A delayed branch in flight (10 R20 f, 43 R380): the slots left, where the PC goes after them, and whether the slots
are annulled (43 R385). -/
structure Delay where
  left : Slots
  dest : Word
  annulled : Bool
  kind : DelayKind
deriving DecidableEq, Repr

/-- For how many cycles the decode of an instruction that addresses with a group of registers is still held back by earlier
instructions (70 R721): AR0–AR7, IR0, IR1 and BK; DP; SP. -/
structure Busy where
  address : Nat
  page : Nat
  stack : Nat
deriving DecidableEq, Repr

/-- The four devices the commutator switches (66 R560). -/
inductive Device where | uart | ethernet | usb | mil
deriving DecidableEq, Repr

/-- Where a boot stream comes from (70 R711, R712, R715): memory of a width in bits at the next address, a port, or the
UART, with the CRC-8 of the bytes so far and the bytes of the word in progress, oldest first. -/
inductive BootSource where
  | memory (next : Word) (width : Nat)
  | port (k : Fin 6)
  | uart (crc : Byte) (bytes : List Byte)
deriving DecidableEq, Repr

/-- The stages of the boot procedure (70 R713, R715, R716); `second` selects core 2 in the code written to RC. -/
inductive BootStage where
  | check
  | width (base : Word)
  | localBus (d : Device) (second : Bool)
  | acquire (d : Device) (second : Bool)
  | connect (d : Device) (second : Bool)
  | uartInit | marker
  | ethernetInit | ethernetFrames
  | usbInit | usbPackets (count : Nat)
  | globalControl | localControl | size | dest (n : Word) | data (dst n : Word)
  | ivtp | tvtp | iack | iackRead (a : Word) | finish (last : Word) | stopped
deriving DecidableEq, Repr

/-- The boot loader's progress. -/
structure Boot where
  stage : BootStage
  source : BootSource
  entry : Option Word
deriving DecidableEq, Repr

/-- What the core is doing: just reset, in the boot loader, executing, waiting in IDLE or IDLE2 (10 R20 f), or stuck until
reset after a word that is no defined encoding (92 D41). -/
inductive Phase where
  | reset | boot (b : Boot) | running | idle | idle2 | stuck
deriving DecidableEq, Repr

/-! ### Instruction cache (20 R125) -/

/-- One cache segment: start address register SSA, present flags, words. -/
structure Segment where
  ssa : BitVec 27
  present : BitVec 32
  words : Vector Word 32
deriving DecidableEq, Repr

/-- The instruction cache: four segments and the LRU stack, most recently used first. -/
structure Cache where
  segs : Vector Segment 4
  lru : List (Fin 4)
deriving DecidableEq, Repr

/-! ### Core peripherals (65) -/

/-- A timer (65 R500–R505): control register (bits 11–6 and 2–0 stored), counter, period and the divide-by-two phase. -/
structure Timer where
  control : Word
  counter : Word
  period : Word
  half : Bool
deriving DecidableEq, Repr

/-- A communication port (65 R510–R518). `input` is PORT DIR, `creq` an asserted token request, `grace` the word a port
halted while idle still receives, `sending` state 2 of the arbiter, a word whose transmission has begun, `asked` a token
request of the other side that has been seen and not yet answered (R515, R516). FIFOs hold the oldest word first. -/
structure Port where
  input : Bool
  ich : Bool
  och : Bool
  outFifo : List Word
  inFifo : List Word
  creq : Bool
  grace : Bool
  sending : Bool
  asked : Bool
deriving DecidableEq, Repr

/-- An autoinitialisation in progress (65 R535): the word to load next, and the new control word. -/
structure AutoInit where
  index : Nat
  control : Word
deriving DecidableEq, Repr

/-- A synchronisation event latch of a channel (65 R548): an event latched and not yet served, and the cycles until a
served one is cleared, during which a new one is lost. -/
structure EventLatch where
  set : Bool
  clearing : Nat
deriving DecidableEq, Repr

/-- A DMA channel (65 R520–R548): its nine registers, the temporary register, the half whose word it holds or that goes
next, the running autoinitialisations of the primary (or unified) and auxiliary half, the latches of its read and
write DIE fields, and the half that has an access in progress and has not been reset since it began (R524). -/
structure DmaChannel where
  control : Word
  source : Word
  sourceIndex : Word
  counter : Word
  dest : Word
  destIndex : Word
  link : Word
  auxCounter : Word
  auxLink : Word
  temp : Option Word
  auxNext : Bool
  init : Option AutoInit
  auxInit : Option AutoInit
  readEvent : EventLatch
  writeEvent : EventLatch
  access : Option Bool
deriving DecidableEq, Repr

/-- One access of a channel, by its primary (or unified) or its auxiliary half (65 R525, R535). -/
inductive DmaOp where
  /-- Read the next autoinitialisation word. -/
  | load (aux : Bool)
  /-- Write an autoinitialisation word to the channel's next register, over the peripheral bus. -/
  | install (aux : Bool) (v : Word)
  /-- Read a word into the temporary register. -/
  | fetch (aux : Bool)
  /-- Write the temporary register. -/
  | store (aux : Bool) (v : Word)
deriving DecidableEq, Repr

/-- An access of the coprocessor that has begun and not completed: it holds the buses of the DMA (65 R513, R520). -/
structure DmaWait where
  channel : Fin 6
  op : DmaOp
  address : Word
  why : Wait
deriving DecidableEq, Repr

/-! ### SoC devices (66) -/

/-- Who holds the commutation register (66 R562). -/
inductive Owner where | free | mine | other
deriving DecidableEq, Repr

/-- A received character with its parity, framing and break errors (66 R625). -/
structure RxChar where
  data : Byte
  pe : Bool
  fe : Bool
  bi : Bool
deriving DecidableEq, Repr

/-- The UART (66 R620–R627). `shift` is the transmitter shift register, `counting` whether the baud counter has been started
(R626), `line` the latched LSR bits 4–1, `fifoError` LSR bit 7, `thre` the transmitter-empty request, `delta` MSR bits 3–0,
`modem` the complements of DCD, RI, DSR, CTS. -/
structure Uart where
  rx : List RxChar
  tx : List Byte
  shift : Option Byte
  ier : BitVec 4
  trigger : BitVec 2
  lcr : Byte
  mcr : BitVec 5
  divisor : BitVec 16
  counting : Bool
  line : BitVec 4
  fifoError : Bool
  thre : Bool
  timeout : Bool
  delta : BitVec 4
  modem : BitVec 4
deriving DecidableEq, Repr

/-- A frame of `bytes` bytes, as words. -/
structure EthernetFrame where
  bytes : Nat
  data : List Word
deriving DecidableEq, Repr

/-- How far the transmit side of the Ethernet controller is with a descriptor (66 R581), by what it does next: reads
PacketSize; reads PacketStartAddr; reads the next word of the packet, `data` being those it has; waits until the packet in the
transmit FIFO has been sent; writes PacketSize back; reads NextDescriptor. -/
inductive EthernetTx where
  | idle
  | sized (size : Word)
  | loading (size start : Word) (data : List Word)
  | sending (size : Word) (data : List Word)
  | sent (size : Word)
  | marked
deriving DecidableEq, Repr

/-- How far the receive side is (66 R582), by what it does next: reads PacketSize when the receive FIFO has a packet; reads
PacketStartAddr; writes the next word of the packet, `done` of them being stored, and behind the last one PacketSize; reads
NextDescriptor. -/
inductive EthernetRx where
  | idle
  | sized (size : Word)
  | storing (size start : Word) (done : Nat)
  | marked
deriving DecidableEq, Repr

/-- The Ethernet device (66 R570–R582): the MAC-side registers 0070 0000h–001Fh, and the registers of its DMA; `txNext`
and `rxNext` are the descriptors its controller works on, `tx` and `rx` how far it is with them, `rxLast` the side served
last, and `rxFifo` the packets received and not yet stored. -/
structure Ethernet where
  mac : Vector (BitVec 16) 32
  txEnable : Bool
  txDescriptor : Word
  txCount : BitVec 8
  txUnderrun : Bool
  txBusError : Bool
  rxEnable : Bool
  rxDescriptor : Word
  rxCount : BitVec 8
  rxOverflow : Bool
  rxBusError : Bool
  mask : BitVec 8
  txNext : Word
  rxNext : Word
  tx : EthernetTx
  rx : EthernetRx
  rxLast : Bool
  rxFifo : List EthernetFrame
deriving DecidableEq, Repr

/-- The four registers of a USB endpoint (66 R592–R594). -/
structure UsbEndpoint where
  csr : Word
  int : Word
  oba : Word
  iba : Word
deriving DecidableEq, Repr

/-- The kind of a USB transaction, by its token (66 R592, R593). -/
inductive UsbToken where | input | output | setup
deriving DecidableEq, Repr

/-- A transaction on the USB line: the function address and the endpoint number of its token; how many bytes the IN buffer
holds or the host sends, and the words it sends; what else is found in it, as flags of EPn_INT; and how many words behind the start
of its buffer the packet stands (66 R588, R592–R594; log 37). -/
structure UsbTransaction where
  address : Byte
  endpoint : BitVec 4
  token : UsbToken
  bytes : Nat
  data : List Word
  found : BitVec 11
  place : Nat
deriving DecidableEq, Repr

/-- A transaction in progress between register set `n` and the USB RAM (66 R585, R594), with the flags it will set: a packet
sent, `left` words still to be read from `next` on, `data` being those it has; or words received, still to be stored. -/
inductive UsbTransfer where
  | send (n : Fin 16) (endpoint : BitVec 4) (bytes : Nat) (next : BitVec 14) (left : Nat) (data : List Word) (flags : BitVec 11)
  | store (n : Fin 16) (next : BitVec 14) (data : List Word) (flags : BitVec 11)
deriving DecidableEq, Repr

/-- The USB device (66 R585–R595); `suspended` is the PHY's SUSPEND state. MODEL: `received` counts the data packets received,
those that set RD, since INT_SRC was last read; only the boot loader's handler looks at it (70 R715). -/
structure Usb where
  csr : Word
  fa : Byte
  mask : Word
  src : Word
  frame : Word
  endpoints : Vector UsbEndpoint 16
  wait : Word
  suspended : Bool
  transfer : Option UsbTransfer
  received : Nat
deriving DecidableEq, Repr

/-- The I/O operation the 1553 device was last started on (66 R606). -/
inductive MilCommand where | none | io | exchange | cyclicCommand | cyclicData
deriving DecidableEq, Repr

/-- A message on a 1553 bus as the device hears it (66 R600, R601): the line (true is the reserve bus LB), the command word,
the second one of an exchange, the data words, the answer words of other terminals, and the error each side finds, 0 for
none (66 R611). -/
structure MilMessage where
  line : Bool
  cw : BitVec 16
  cw2 : Option (BitVec 16)
  data : List (BitVec 16)
  answers : List (BitVec 16)
  rtError : BitVec 5
  monitorError : BitVec 4
deriving DecidableEq, Repr

/-- The MIL-STD-1553 device (66 R600–R612); `isio` is the eight-deep FIFO, `bcwRt` the built-in-test word of the RT,
`faultBlocked` the state of BLER and RBLER, `monitorNext` the cell the monitor writes next, `monitorCount` the messages not
yet acknowledged, `straps` the RT address strapped on the connector. -/
structure Mil where
  cnr0 : BitVec 9
  cnr1 : BitVec 7
  cnr2 : BitVec 4
  acio : BitVec 12
  watch0 : BitVec 16
  watch1 : BitVec 16
  isr : BitVec 13
  isio : List (BitVec 12)
  ier : BitVec 6
  bcw : BitVec 5
  command : MilCommand
  bcwRt : BitVec 5
  faultBlocked : Bool
  monitorNext : BitVec 12
  monitorCount : Nat
  straps : BitVec 6
deriving DecidableEq, Repr

/-- What other terminals have put on the bus by the end of a command of the controller: answer and data words, and the error
the controller finds (66 R609); in loop-back also the errors that the device's own terminal and monitor find (R611). -/
structure MilBus where
  answers : List (BitVec 16)
  data : List (BitVec 16)
  cause : BitVec 5
  rtError : BitVec 5
  monitorError : BitVec 4
deriving DecidableEq, Repr

/-- What a job of the 1553 device has done: the word of one access to its RAM, or the end of a command on the bus, with the
registers as they stood then. -/
inductive MilSeen where
  | word (v : BitVec 16)
  | bus (b : MilBus) (now : Mil)
deriving DecidableEq, Repr

/-- What a job is: a command of the controller, or a message that the terminal and the monitor have heard. -/
inductive MilWork where
  | command
  | message (g : MilMessage)
deriving DecidableEq, Repr

/-- A job of the 1553 device in progress: the registers as they stood when it began, and what it has done, oldest first. -/
structure MilJob where
  work : MilWork
  mil : Mil
  seen : List MilSeen
deriving DecidableEq, Repr

/-- Everything behind an address that is not plain memory. `milRun` and `milHeard` are the jobs of the 1553 device: the command
of its controller, and the message its terminal and monitor are at. `pulses` holds the IIF bits raised since the interrupt
controller last looked, `busGrant` a peripheral-bus ready forced by NMI (10 R33). -/
structure Devices where
  globalControl : Word
  localControl : Word
  timers : Vector Timer 2
  ports : Vector Port 6
  dma : Vector DmaChannel 6
  dmaFirst : Fin 6
  owner : Owner
  rc : BitVec 8
  uart : Uart
  pll : BitVec 14
  ethernet : Ethernet
  usb : Usb
  mil : Mil
  milRun : Option MilJob
  milHeard : Option MilJob
  pulses : Word
  busGrant : Bool
deriving DecidableEq, Repr

/-! ### Environment -/

/-- The pins the state depends on (10 R49, 20 R122): true is a high level, but for `ready0`, `ready1` and the bus
enables, where true is the active (low) level. `core2` tells which of the two cores this is. -/
structure Pins where
  core2 : Bool
  romen : Bool
  resetloc : BitVec 2
  nmi : Bool
  iiof : BitVec 4
  tclk : BitVec 2
  ready0 : Bool
  ready1 : Bool
  ae : Bool
  ce0 : Bool
  ce1 : Bool
  de : Bool
deriving DecidableEq, Repr

/-- One move of an agent (92 D70). The state holds the moves to come; the step takes them in order. -/
inductive Input where
  /-- The CPU's own move: an interrupt entry or an instruction. An empty agenda leaves every move to the CPU. -/
  | cpu
  /-- One H1 cycle of the timers. -/
  | h1
  /-- TCLKt takes a level. -/
  | tclk (t : Fin 2) (level : Bool)
  /-- NMI# takes a level. -/
  | nmi (level : Bool)
  /-- IIOFx# takes a level. -/
  | iiof (x : Fin 4) (level : Bool)
  /-- ROMEN takes a level (70 R710). -/
  | romen (level : Bool)
  /-- The ready and enable pins of the global bus; true is active. -/
  | busPins (ready0 ready1 ae ce0 ce1 de : Bool)
  /-- Another bus master writes external memory. -/
  | externalWrite (a v : Word)
  /-- A word arrives at a port. -/
  | portReceive (k : Fin 6) (v : Word)
  /-- A port has transmitted the oldest word of its output FIFO. -/
  | portSend (k : Fin 6)
  /-- The other side asks a port for the token. -/
  | portAsk (k : Fin 6)
  /-- The other side passes the token to a port. -/
  | portGrant (k : Fin 6)
  /-- The DMA coprocessor gets one access. -/
  | dma
  /-- The other core executes LDII on RS. -/
  | otherAcquire
  /-- The other core executes STII on RS. -/
  | otherRelease
  /-- The other core writes RC. -/
  | otherRc (v : BitVec 8)
  /-- The other core reads a device register. -/
  | otherRead (a : Word)
  /-- The other core writes a device register. -/
  | otherWrite (a v : Word)
  /-- A character arrives at the UART. -/
  | uartReceive (c : RxChar)
  /-- The UART has sent its character. -/
  | uartShift
  /-- Four character times without a read of the receiver FIFO. -/
  | uartTimeout
  /-- The modem lines: complements of DCD, RI, DSR, CTS. -/
  | uartModem (v : BitVec 4)
  /-- The Ethernet controller makes one access to its RAM. -/
  | ethernetDma
  /-- The packet in the Ethernet transmit FIFO has been sent. -/
  | ethernetSent
  /-- A frame arrives from the line. -/
  | ethernetReceive (f : EthernetFrame)
  /-- A bus error of the Ethernet controller, on receive or transmit. -/
  | ethernetBusError (receive : Bool)
  /-- The PHY writes an Ethernet MII register (MRDD, MIND, SMII). -/
  | ethernetPhy (n : Fin 32) (v : BitVec 16)
  /-- USB line status and frame number. -/
  | usbLine (status frame : Word)
  /-- USB level-1 events, as INT_SRC bits 30–20. -/
  | usbEvent (src : Word)
  /-- A transaction begins on the USB line. -/
  | usbToken (x : UsbTransaction)
  /-- The USB controller makes one access to its RAM for the transaction in progress, or ends it. -/
  | usbWord
  /-- A job of the 1553 device makes one access to its RAM: the command of the controller, or the message being heard. -/
  | milWord (controller : Bool)
  /-- The running controller-mode 1553 command ends on the bus. -/
  | milController (b : MilBus)
  /-- One burst of the running cyclic 1553 output is over. -/
  | milBurst
  /-- A message passes on a 1553 bus. -/
  | milMessage (msg : MilMessage)
  /-- A RAM error is found while the processor reads the 1553 RAM. -/
  | milRamError
  /-- The 1553 clock advances. -/
  | milClock (watch0 watch1 : BitVec 16)
  /-- System reset with the straps sampled at it. -/
  | reset (romen : Bool) (resetloc : BitVec 2)
deriving DecidableEq, Repr

/-! ### The state -/

/-- The state of one core, its devices and its memory. The last group of fields is the model's own. -/
structure State where
  /-- R0–R11. -/
  r : Vector Ext 12
  /-- AR0–AR7. -/
  ar : Vector Word 8
  /-- DP, sixteen implemented bits. -/
  dp : BitVec 16
  ir0 : Word
  ir1 : Word
  bk : Word
  sp : Word
  /-- ST without its read-only reserved bits, which read as free values. -/
  st : Word
  die : Word
  iie : Word
  /-- IIF; FLAGx of an input or level pin is not stored but computed from the pin. -/
  iif : Word
  rs : Word
  re : Word
  rc : Word
  ivtp : Word
  tvtp : Word
  pc : Word
  /-- The hidden bit S of the repeat logic. -/
  repeatSingle : Bool
  /-- The instruction register, and whether the next fetch is taken from it (RPTS). -/
  ir : Word
  irHeld : Bool
  delay : Option Delay
  /-- The register conflicts in the pipeline (70 R721). -/
  busy : Busy
  phase : Phase
  /-- The interrupt whose entry has begun and waits for an access, its flag already cleared. -/
  entering : Option Nat
  /-- LOCK# and LLOCK#; true is inactive. -/
  lockGlobal : Bool
  lockLocal : Bool
  /-- IACK#; true is inactive. -/
  iack : Bool
  /-- The global and the local bus. -/
  globalBus : BusState
  localBus : BusState
  cache : Cache
  dev : Devices
  pins : Pins
  /-- First and last addresses of the global-bus ranges where the board has memory (00 R12, 20 R104). -/
  board : List (Word × Word)
  /-- The words of the boot ROM, where the host has supplied an image of it (70 R710, 92 D66). -/
  romImage : Option (Vector Word 4096)
  mem : List Host.Cell
  /-- NMI# and IIOFx# levels when the interrupt controller last looked. -/
  nmiLast : Bool
  iiofLast : BitVec 4
  /-- Level-mode pins acknowledged in the last step, and those whose FLAG therefore reads 0 in this one (60 R657). -/
  ackPending : BitVec 4
  levelAck : BitVec 4
  /-- Level-mode pins whose FLAG software wrote as 1 in the last step, and those that read 1 in this one for it (10 R44). -/
  raisePending : BitVec 4
  levelRaise : BitVec 4
  /-- Requests, by their IIF bits, that the DMA took and the CPU takes too (60 R659). -/
  claimed : Word
  /-- The DMA access that has begun and not completed. -/
  dmaHeld : Option DmaWait
  /-- MODEL: an access of the current instruction is waiting. -/
  waiting : Option Wait
  /-- MODEL: the register that an LDPK, LDP or LDA behind the current instruction has loaded already, with its value (70 R729). -/
  early : Option (Reg × Word)
  /-- MODEL: the agenda, the moves of the agents still to come. -/
  inputs : List Input
  /-- MODEL: what the last step showed outside. -/
  outputs : List Output
  /-- MODEL: the free values drawn so far. -/
  draws : Nat
deriving DecidableEq, Repr

/-! ### Reset (70 R700–R706) -/

/-- A timer after reset (65 R501, R503). -/
def Timer.reset : Timer := ⟨0, 0, 0, false⟩

/-- Port `k` after reset: 0–2 hold the token, 3–5 are inputs (65 R518). -/
def Port.reset (k : Nat) : Port := ⟨decide (3 ≤ k), false, false, [], [], false, false, false, false⟩

/-- A DMA channel after reset (65 R521). -/
def DmaChannel.reset : DmaChannel := ⟨0, 0, 0, 0, 0, 0, 0, 0, 0, none, false, none, none, ⟨false, 0⟩, ⟨false, 0⟩, none⟩

/-- The UART after reset (66 R627); LCR, whose printed reset value is unusable (92 D30), is 0 (log 1). The empty transmitter
FIFO requests its interrupt, which IER masks (66 R625). The modem lines are inactive. -/
def Uart.reset : Uart :=
  ⟨[], [], none, 0, 0, 0, 0, 0, false, 0, false, true, false, 0, 0⟩

/-- The Ethernet registers after reset (66 R571–R579). -/
def Ethernet.reset : Ethernet :=
  { mac := ⟨#[0x8000, 0, 0, 0, 0x370F, 0x0600, 0x1000, 0, 0, 0, 0, 0, 0, 0, 0, 0,
              0, 0, 0, 0, 0, 0, 0, 0, 0, 0, 0, 0, 0, 0, 0, 0], rfl⟩
    txEnable := false, txDescriptor := 0, txCount := 0, txUnderrun := false, txBusError := false
    rxEnable := false, rxDescriptor := 0, rxCount := 0, rxOverflow := false, rxBusError := false
    mask := 0, txNext := 0, rxNext := 0, tx := .idle, rx := .idle, rxLast := true, rxFifo := [] }

/-- The USB registers after reset: all 0 (66 R586). -/
def Usb.reset : Usb := ⟨0, 0, 0, 0, 0, Vector.replicate 16 ⟨0, 0, 0, 0⟩, 0, false, none, 0⟩

/-- The 1553 registers after reset (66 R603–R609). -/
def Mil.reset (straps : BitVec 6) : Mil := ⟨0x001, 0, 0, 0, 0, 0, 0, [], 0, 0, .none, 0, false, 0x800, 0, straps⟩

/-- The cache after reset: no word present, segment 0 on top of the LRU stack (20 R125). -/
def Cache.reset : Cache := ⟨Vector.replicate 4 ⟨0, 0, Vector.replicate 32 0⟩, [0, 1, 2, 3]⟩

/-- A bus after reset: A(30–0) in high impedance, no address yet under either strobe (20 R121, 70 R704). -/
def BusState.reset : BusState := ⟨none, none, none⟩

/-- The devices after reset (70 R703). -/
def Devices.reset (straps : BitVec 6) : Devices :=
  { globalControl := 0x3E39FFF0, localControl := 0x3E39FFF0
    timers := Vector.replicate 2 Timer.reset
    ports := ⟨#[Port.reset 0, Port.reset 1, Port.reset 2, Port.reset 3, Port.reset 4, Port.reset 5], rfl⟩
    dma := Vector.replicate 6 DmaChannel.reset, dmaFirst := 0
    owner := .free, rc := 0, uart := Uart.reset, pll := 0x101
    ethernet := Ethernet.reset, usb := Usb.reset, mil := Mil.reset straps
    milRun := none, milHeard := none, pulses := 0, busGrant := false }

/-- The pins at power-up: core 1, boot ROM enabled, RESETLOC = 00, interrupt pins high, external bus ready (log 6). -/
def Pins.reset : Pins :=
  { core2 := false, romen := true, resetloc := 0, nmi := true, iiof := 0xF, tclk := 0
    ready0 := true, ready1 := true, ae := true, ce0 := true, ce1 := true, de := true }

/-- The state right after reset (70 R706): ST = 0400h, interrupt registers, IVTP and TVTP 0, devices at their reset
values, every register with no stated value 0 (log 1), memory with nothing listed (log 2), the whole global bus populated (log 6),
no ROM image supplied (log 8). The reset vector is not yet read. -/
def State.reset : State :=
  { r := Vector.replicate 12 0, ar := Vector.replicate 8 0, dp := 0, ir0 := 0, ir1 := 0, bk := 0, sp := 0
    st := 0x400, die := 0, iie := 0, iif := 0, rs := 0, re := 0, rc := 0, ivtp := 0, tvtp := 0, pc := 0
    repeatSingle := false, ir := 0, irHeld := false, delay := none, busy := ⟨0, 0, 0⟩, phase := .reset
    entering := none, lockGlobal := true, lockLocal := true, iack := true
    globalBus := BusState.reset, localBus := BusState.reset
    cache := Cache.reset, dev := Devices.reset 0, pins := Pins.reset, board := [(0x80000000, 0xFFFFFFFF)]
    romImage := none, mem := [], nmiLast := true, iiofLast := 0xF, ackPending := 0, levelAck := 0, raisePending := 0, levelRaise := 0
    claimed := 0, dmaHeld := none
    waiting := none, early := none, inputs := [], outputs := [], draws := 0 }

end Sys2Proof.Machine
end

