-- ==== Sys2Proof/Machine/Bits.lean ====
section
/-! DEFINITION. Bit fields of words, and memory as a list of byte cells in canonical form (20 R100; log 2, 3). -/

namespace Sys2Proof.Machine

/-- `v` with bit `i` set to `b`. -/
def putBit {n : Nat} (v : BitVec n) (i : Nat) (b : Bool) : BitVec n :=
  if b then v ||| (1#n <<< i) else v &&& ~~~(1#n <<< i)

/-- `new` where `mask` is 1 and `old` where it is 0. -/
def merge {n : Nat} (mask new old : BitVec n) : BitVec n := (new &&& mask) ||| (old &&& ~~~mask)

/-- Bits `lo` and up, `n` of them, of a vector, as a number. -/
def bits {w : Nat} (v : BitVec w) (lo n : Nat) : Nat := (v.extractLsb' lo n).toNat

/-- `v` with its `n` bits from `lo` replaced by `x`. -/
def putField {w : Nat} (v : BitVec w) (lo n : Nat) (x : BitVec n) : BitVec w :=
  merge ((BitVec.allOnes n).setWidth w <<< lo) (x.setWidth w <<< lo) v

/-! ### Memory cells -/

/-- The byte an unlisted address reads as (log 2). -/
def Memory.unlisted : Byte := 0

/-- The byte at a key. -/
def Memory.get : List Host.Cell → Nat → Byte
  | [], _ => Memory.unlisted
  | (b, v) :: t, a => if a = b then v else Memory.get t a

/-- The memory with one byte written; the canonical form is kept. -/
def Memory.set : List Host.Cell → Nat → Byte → List Host.Cell
  | [], a, v => if v = Memory.unlisted then [] else [(a, v)]
  | (b, w) :: t, a, v =>
      if a < b then (if v = Memory.unlisted then (b, w) :: t else (a, v) :: (b, w) :: t)
      else if a = b then (if v = Memory.unlisted then t else (a, v) :: t)
      else (b, w) :: Memory.set t a v

/-- The canonical form: keys strictly rising, no entry equal to what an unlisted address reads as. -/
def Memory.wf : List Host.Cell → Bool
  | [] => true
  | (a, v) :: t => decide (v ≠ Memory.unlisted) && t.all (fun c => decide (a < c.1)) && Memory.wf t

/-- The key of byte `i` of the word at `a`; byte 0 is bits 7–0 (log 3). -/
def byteKey (a : Word) (i : Nat) : Nat := 4 * a.toNat + i

/-- The word at an address. -/
def Memory.readWord (m : List Host.Cell) (a : Word) : Word :=
  Memory.get m (byteKey a 3) ++ Memory.get m (byteKey a 2) ++ Memory.get m (byteKey a 1) ++ Memory.get m (byteKey a 0)

/-- The memory with the word at an address written. -/
def Memory.writeWord (m : List Host.Cell) (a v : Word) : List Host.Cell :=
  let m := Memory.set m (byteKey a 0) (v.extractLsb' 0 8)
  let m := Memory.set m (byteKey a 1) (v.extractLsb' 8 8)
  let m := Memory.set m (byteKey a 2) (v.extractLsb' 16 8)
  Memory.set m (byteKey a 3) (v.extractLsb' 24 8)

end Sys2Proof.Machine
end

