-- ==== Sys2Proof/Machine/Dma.lean ====
section
/-! DEFINITION. The DMA channels (spec 65 R520–R548): registers, synchronisation, and what one access does to a channel.
The accesses themselves are made in Environment.lean. -/

namespace Sys2Proof.Machine

/-- START, bits 23–22, or AUX START, bits 25–24 (65 R524). -/
def DmaChannel.start (c : DmaChannel) (aux : Bool) : Nat := bits c.control (if aux then 24 else 22) 2
/-- TRANSFER MODE or AUX TRANSFER MODE (65 R530). -/
def DmaChannel.mode (c : DmaChannel) (aux : Bool) : Nat := bits c.control (if aux then 4 else 2) 2
/-- SPLIT MODE (65 R523). -/
def DmaChannel.split (c : DmaChannel) : Bool := c.control.getLsbD 14
/-- COM PORT (65 R523). -/
def DmaChannel.comPort (c : DmaChannel) : Nat := bits c.control 15 3
/-- The transfer counter or the auxiliary one. -/
def DmaChannel.count (c : DmaChannel) (aux : Bool) : Word := if aux then c.auxCounter else c.counter

/-- Address update (65 R526): linear, or 24-bit reverse-carry with bits 31–24 unchanged (92 D23). -/
def dmaStep (a i : Word) (rev : Bool) : Word :=
  if rev then
    a.extractLsb' 24 8 ++ ((a.extractLsb' 0 24).reverse + (i.extractLsb' 0 24).reverse).reverse
  else a + i

/-- The temporary register holds a word of this half. -/
def DmaChannel.holds (c : DmaChannel) (aux : Bool) : Bool := c.temp.isSome && c.auxNext == aux

/-- STATUS or AUX STATUS (65 R524) of a half: held only when no access of it is in progress. -/
def DmaChannel.status (c : DmaChannel) (aux : Bool) : BitVec 2 :=
  if c.access = some aux then 3
  else match c.start aux with
    | 3 => 3
    | 2 => if c.holds aux then 3 else 0
    | 1 => if c.holds aux then 1 else 0
    | _ => 0

/-- The control register as it reads (65 R522, R524). -/
def DmaChannel.readControl (c : DmaChannel) : Word :=
  putField (putField c.control 26 2 (c.status false)) 28 2 (c.status true)

/-- The running autoinitialisation of a half. -/
def DmaChannel.initOf (c : DmaChannel) (aux : Bool) : Option AutoInit := if aux then c.auxInit else c.init

/-- The autoinitialisation of a half replaced. -/
def DmaChannel.setInit (c : DmaChannel) (aux : Bool) (i : Option AutoInit) : DmaChannel :=
  if aux then { c with auxInit := i } else { c with init := i }

/-- A cleared event latch. -/
def EventLatch.cleared : EventLatch := ⟨false, 0⟩

/-- The reset condition of a half (65 R524): its field is 00, in split mode both fields. In split mode one field alone at 00
only keeps its half from going on (DESIGN CHOICE, log 31). -/
def DmaChannel.inReset (c : DmaChannel) (aux : Bool) : Bool :=
  c.start aux == 0 && (!c.split || c.start (!aux) == 0)

/-- Reset of one half (65 R524, R548): counter 0, held word and latched events dropped; what an access in progress reads is
discarded. -/
def DmaChannel.resetHalf (c : DmaChannel) (aux : Bool) : DmaChannel :=
  let c := if aux then { c with auxCounter := 0 } else { c with counter := 0 }
  let c := if c.auxNext = aux then { c with temp := none } else c
  let c := if c.access = some aux then { c with access := none } else c
  let c := c.setInit aux none
  if c.split then (if aux then { c with readEvent := .cleared } else { c with writeEvent := .cleared })
  else if aux then c else { c with readEvent := .cleared, writeEvent := .cleared }

/-- A half goes to START = 11 with its counter 0 in an autoinitialisation mode: it autoinitialises first (65 R530, R531),
unless it still holds a word. -/
def DmaChannel.beginHalf (c : DmaChannel) (old : DmaChannel) (aux : Bool) : DmaChannel :=
  if c.start aux = 3 ∧ old.start aux ≠ 3 ∧ 2 ≤ c.mode aux ∧ c.count aux = 0 ∧ c.initOf aux = none ∧ c.holds aux = false then
    c.setInit aux (some ⟨0, c.control⟩)
  else c

/-- Both halves started by one write: the primary goes first (65 R524). -/
def DmaChannel.primaryFirst (c : DmaChannel) (old : DmaChannel) : DmaChannel :=
  if c.split ∧ c.temp = none ∧ c.start false = 3 ∧ c.start true = 3 ∧ old.start false ≠ 3 ∧ old.start true ≠ 3 then
    { c with auxNext := false }
  else c

/-- A new control word (65 R522, R524); PRIORITY MODE exists in channel 0 only. -/
def DmaChannel.setControl (c : DmaChannel) (first : Bool) (v : Word) : DmaChannel :=
  let new := { c with control := v &&& (if first then 0x43FFFFFF else 0x03FFFFFF) }
  let new := if new.inReset false then new.resetHalf false else new.beginHalf c false
  let new := if new.inReset true then new.resetHalf true else if new.split then new.beginHalf c true else new
  new.primaryFirst c

/-- A read of a DMA register (65 R521): reading control clears the two TCINT flags (R523). -/
def DmaChannel.read (c : DmaChannel) (off : Nat) : Option (Word × DmaChannel) :=
  match off with
  | 0 => some (c.readControl, { c with control := putBit (putBit c.control 20 false) 21 false })
  | 1 => some (c.source, c)
  | 2 => some (c.sourceIndex, c)
  | 3 => some (c.counter, c)
  | 4 => some (c.dest, c)
  | 5 => some (c.destIndex, c)
  | 6 => some (c.link, c)
  | 7 => some (c.auxCounter, c)
  | 8 => some (c.auxLink, c)
  | _ => none

/-- A write of a DMA register (65 R521). -/
def DmaChannel.write (c : DmaChannel) (first : Bool) (off : Nat) (v : Word) : Option DmaChannel :=
  match off with
  | 0 => some (c.setControl first v)
  | 1 => some { c with source := v }
  | 2 => some { c with sourceIndex := v }
  | 3 => some { c with counter := v }
  | 4 => some { c with dest := v }
  | 5 => some { c with destIndex := v }
  | 6 => some { c with link := v }
  | 7 => some { c with auxCounter := v }
  | 8 => some { c with auxLink := v }
  | _ => none

/-! ### Event latches (65 R548) -/

/-- An event is latched and waits to be served. -/
def EventLatch.ready (l : EventLatch) : Bool := l.set

/-- The latch when a source is active: a set that comes while a served event is being cleared is lost. -/
def EventLatch.latch (l : EventLatch) (active : Bool) : EventLatch :=
  if active && l.clearing == 0 then { l with set := true } else l

/-- The latch when its event is served: the clear follows two cycles later. -/
def EventLatch.serve (l : EventLatch) (used : Bool) : EventLatch := if used && l.set then ⟨false, 2⟩ else l

/-- One cycle of the coprocessor. -/
def EventLatch.tick (l : EventLatch) : EventLatch := { l with clearing := l.clearing - 1 }

/-- One cycle of a channel's latches. -/
def DmaChannel.tick (c : DmaChannel) : DmaChannel :=
  { c with readEvent := c.readEvent.tick, writeEvent := c.writeEvent.tick }

/-! ### What a channel does next (65 R525, R535, R537, R540, R546, R547) -/

/-- Whether the synchronisation that half's autoinitialisation reads wait for is selected (65 R537). -/
def DmaChannel.loadSync (c : DmaChannel) (aux : Bool) : Bool :=
  if c.split && aux then c.control.getLsbD 7 && c.control.getLsbD 11 else c.control.getLsbD 6 && c.control.getLsbD 10

/-- The latch whose event a half's reads wait for: the write field of the primary half of a split channel, else the read
field (65 R537, R546, R547). -/
def DmaChannel.readLatch (c : DmaChannel) (aux : Bool) : EventLatch :=
  if c.split && !aux then c.writeEvent else c.readEvent

/-- Whether a half may read its next autoinitialisation word (65 R537). -/
def DmaChannel.loadReady (c : DmaChannel) (aux : Bool) : Bool := !c.loadSync aux || (c.readLatch aux).ready

/-- Whether a half may read its next word (65 R546, R547). -/
def DmaChannel.fetchReady (c : DmaChannel) (aux : Bool) : Bool :=
  !c.control.getLsbD (if c.split && aux then 7 else 6) || (c.readLatch aux).ready

/-- Whether a held word may be written (65 R546, R547). -/
def DmaChannel.storeReady (c : DmaChannel) (aux : Bool) : Bool :=
  if !c.split then !c.control.getLsbD 7 || c.writeEvent.ready
  else if aux then true
  else !c.control.getLsbD 6 || c.writeEvent.ready

/-- The access a half asks for when the temporary register is free: an autoinitialisation word while one is loading. -/
def DmaChannel.halfOp (c : DmaChannel) (aux : Bool) : Option DmaOp :=
  if c.start aux ≠ 3 ∨ (c.split = true ∧ 5 < c.comPort) then none
  else if (c.initOf aux).isSome then (if c.loadReady aux then some (.load aux) else none)
  else if c.fetchReady aux then some (.fetch aux) else none

/-- The access a channel asks for: the held word first, else the half whose turn it is, else the other (65 R540). -/
def DmaChannel.next (c : DmaChannel) : Option DmaOp :=
  match c.temp with
  | some v =>
      if ¬ (c.start c.auxNext = 3 ∨ c.start c.auxNext = 2) then none
      else if (c.initOf c.auxNext).isSome then some (.install c.auxNext v)
      else if c.storeReady c.auxNext then some (.store c.auxNext v) else none
  | none =>
      if !c.split then c.halfOp false
      else match c.halfOp c.auxNext with
        | some op => some op
        | none => c.halfOp (!c.auxNext)

/-- The channel whose access is granted (65 R540): the first that asks, in fixed or rotating order. -/
def Devices.dmaGrant (d : Devices) : Option (Fin 6 × DmaOp) :=
  let first := if (d.dma[0]).control.getLsbD 30 then 0 else d.dmaFirst
  ([0, 1, 2, 3, 4, 5] : List (Fin 6)).findSome? fun k => ((d.dma[first + k]).next).map fun op => (first + k, op)

/-- The half an access belongs to. -/
def DmaOp.aux : DmaOp → Bool
  | .load aux | .install aux _ | .fetch aux | .store aux _ => aux

/-- The address a read or a data write uses; split halves use the FIFO addresses of the port (65 R525). -/
def DmaChannel.address (c : DmaChannel) : DmaOp → Word
  | .load aux | .install aux _ => if aux then c.auxLink else c.link
  | .fetch aux => if aux then 0x00100041 + BitVec.ofNat 32 (16 * c.comPort) else c.source
  | .store aux _ => if c.split && !aux then 0x00100042 + BitVec.ofNat 32 (16 * c.comPort) else c.dest

/-- The latch of a half's reads after a read that was synchronised. -/
def DmaChannel.serveRead (c : DmaChannel) (aux used : Bool) : DmaChannel :=
  if c.split && !aux then { c with writeEvent := c.writeEvent.serve used } else { c with readEvent := c.readEvent.serve used }

/-- The channel after a word has been fetched (65 R525). The event of a split channel's primary half serves the write. -/
def DmaChannel.fetched (c : DmaChannel) (aux : Bool) (v : Word) : DmaChannel :=
  let c := { c with temp := some v, auxNext := aux }
  if aux then c.serveRead true (c.control.getLsbD 7)
  else
    let c := { c with source := dmaStep c.source c.sourceIndex (c.control.getLsbD 12) }
    if c.split then c else c.serveRead false (c.control.getLsbD 6)

/-- The end of a block (65 R523, R530): the TCINT flag, the interrupt if TCC is 1, and what the mode says. -/
def DmaChannel.blockEnd (c : DmaChannel) (aux : Bool) : DmaChannel × Bool :=
  let pulse := c.control.getLsbD (if aux then 19 else 18)
  let c := { c with control := putBit c.control (if aux then 21 else 20) true }
  let stop : DmaChannel := { c with control := putField c.control (if aux then 24 else 22) 2 2 }
  (match c.mode aux with
    | 0 => c
    | 2 => c.setInit aux (some ⟨0, c.control⟩)
    | _ => stop, pulse)

/-- The temporary register emptied; in split mode the other half goes next (65 R540). -/
def DmaChannel.pairDone (c : DmaChannel) (aux : Bool) : DmaChannel := { c with temp := none, auxNext := c.split && !aux }

/-- The channel after its held word has been written (65 R525); the flag tells whether to raise DMAINT. -/
def DmaChannel.stored (c : DmaChannel) (aux : Bool) : DmaChannel × Bool :=
  let c := c.pairDone aux
  let c : DmaChannel := if c.split && !aux then { c with writeEvent := c.writeEvent.serve (c.control.getLsbD 6) }
    else
      let c := { c with dest := dmaStep c.dest c.destIndex (c.control.getLsbD 13) }
      if c.split then c else { c with writeEvent := c.writeEvent.serve (c.control.getLsbD 7) }
  let c : DmaChannel := if aux then { c with auxCounter := c.auxCounter - 1 } else { c with counter := c.counter - 1 }
  if c.count aux = 0 then c.blockEnd aux else (c, false)

/-- The channel after an autoinitialisation word has been read (65 R535, R537): it waits in the temporary register, and the
link pointer goes on unless it is static. -/
def DmaChannel.loaded (c : DmaChannel) (aux : Bool) (v : Word) : DmaChannel :=
  let static := c.control.getLsbD (if aux then 9 else 8)
  let c := if static then c else if aux then { c with auxLink := c.auxLink + 1 } else { c with link := c.link + 1 }
  { c.serveRead aux (c.loadSync aux) with temp := some v, auxNext := aux }

/-- The control word at the end of an autoinitialisation (92 D24). The TCINT flags set since, which software has not read,
are kept (DESIGN CHOICE, log 31). -/
def DmaChannel.newControl (c : DmaChannel) (first : Bool) (v : Word) : DmaChannel :=
  c.setControl first (v ||| (c.control &&& 0x00300000))

/-- The channel after an autoinitialisation word has been written to its register (65 R535); the control word applies when
the whole sequence is done. -/
def DmaChannel.installed (c : DmaChannel) (first aux : Bool) (v : Word) : DmaChannel :=
  let i := (c.initOf aux).getD ⟨0, 0⟩
  let more (c : DmaChannel) : DmaChannel := c.setInit aux (some { i with index := i.index + 1 })
  let last (c : DmaChannel) : DmaChannel := (c.setInit aux none).newControl first i.control
  (if i.index = 0 then c.setInit aux (some ⟨1, v⟩)
  else if aux then
    match i.index with
    | 1 => more { c with dest := v }
    | 2 => more { c with destIndex := v }
    | 3 => more { c with auxCounter := v }
    | _ => last { c with auxLink := v }
  else match i.index with
    | 1 => more { c with source := v }
    | 2 => more { c with sourceIndex := v }
    | 3 => more { c with counter := v }
    | 4 => if c.split then last { c with link := v } else more { c with dest := v }
    | 5 => more { c with destIndex := v }
    | _ => last { c with link := v }).pairDone aux

/-! ### Synchronisation events (65 R545, R548) -/

/-- What a DIE field selects. -/
inductive DmaEvent where
  | none | port | iiof (x : Fin 4) | timer (n : Fin 2)
deriving DecidableEq, Repr

/-- The event selected by the read or write field of channel `c` in DIE (10 R42, 65 R545). -/
def dieEvent (die : Word) (c : Fin 6) (write : Bool) : DmaEvent :=
  if c.val < 2 then
    match bits die (4 * c.val + if write then 2 else 0) 2 with
    | 0 => .none
    | 1 => .port
    | 2 => .iiof (if c = 0 then (if write then 1 else 0) else (if write then 3 else 2))
    | _ => .timer 0
  else
    match bits die (8 + 6 * (c.val - 2) + if write then 3 else 0) 3 with
    | 0 => .none
    | 1 => .port
    | 2 => .iiof 0
    | 3 => .iiof 1
    | 4 => .iiof 2
    | 5 => .iiof 3
    | 6 => .timer 0
    | _ => .timer 1

/-- Whether a channel latches events of its read or write field: not while START (AUX START) is 00 (65 R548). -/
def DmaChannel.latches (c : DmaChannel) (write : Bool) : Bool :=
  if c.split then c.start (!write) != 0 else c.start false != 0

end Sys2Proof.Machine
end

