-- ==== Sys2Proof/Machine/Ethernet.lean ====
section
/-! DEFINITION. The Ethernet device (spec 66 R570–R582): its registers, and its controller, which makes one access to
its RAM in a move. What a frame is on the wire is outside the model. -/

namespace Sys2Proof.Machine

/-- The bits that exist in each MAC-side register 0070 0000h–001Fh, low half (66 R571–R576); the layouts of the test-only
registers 0Fh, 13h–1Fh are not given and all sixteen bits are kept. A bit outside the mask reads 0, as in the value the register
is reset to (DEDUCED, log 36), but for those of `ethernetUnstated`. -/
def ethernetMask (n : Nat) : BitVec 16 :=
  match n with
  | 0x00 => 0xCF1F | 0x01 => 0x73FF | 0x02 => 0x007F | 0x03 => 0x7F7F | 0x04 => 0x3F0F | 0x05 => 0xFFFF
  | 0x06 => 0x99FB | 0x07 => 0x0007 | 0x08 => 0x801F | 0x09 => 0x0003 | 0x0A => 0x1F1F | 0x0B => 0xFFFF
  | 0x0C => 0xFFFF | 0x0D => 0x000F | 0x0E => 0x001F
  | _ => 0xFFFF

/-- The bits of a MAC-side register that its rule does not mention and that read as free values (93 U1): IPGT 15–7 (66 R573);
MIND 15–4 and SMII 15–5, which have no field and no stated reset value (66 R575; DESIGN CHOICE, log 36); and the whole of MWTD,
which is write-only. -/
def ethernetUnstated (n : Nat) : BitVec 16 :=
  match n with
  | 0x02 => 0xFF80 | 0x0B => 0xFFFF | 0x0D => 0xFFF0 | 0x0E => 0xFFE0
  | _ => 0

/-- The MAC-side registers that software cannot write: MRDD, MIND, SMII, MIIFIFRAM3 and 7 (66 R570). -/
def ethernetReadOnly (n : Nat) : Bool := n == 0x0C || n == 0x0D || n == 0x0E || n == 0x1B || n == 0x1F

/-- The attached PHY gives a read-only MII register its value, in the bits that have a field (66 R575). -/
def Ethernet.phy (e : Ethernet) (n : Fin 32) (v : BitVec 16) : Ethernet :=
  if ethernetReadOnly n.val then { e with mac := e.mac.set n (v &&& ethernetMask n.val) } else e

/-- The status word of the transmit side (66 R578). -/
def Ethernet.txStatus (e : Ethernet) : Word :=
  let v := putField (0 : Word) 16 8 e.txCount
  putBit (putBit (putBit v 3 e.txBusError) 1 e.txUnderrun) 0 (e.txCount != 0)

/-- The status word of the receive side (66 R578). -/
def Ethernet.rxStatus (e : Ethernet) : Word :=
  let v := putField (0 : Word) 16 8 e.rxCount
  putBit (putBit (putBit v 3 e.rxBusError) 2 e.rxOverflow) 0 (e.rxCount != 0)

/-- DMAInterrupt: the masked status bits (66 R579). -/
def Ethernet.interrupts (e : Ethernet) : BitVec 8 :=
  (BitVec.ofBool e.rxBusError ++ BitVec.ofBool e.rxOverflow ++ 0#1 ++ BitVec.ofBool (e.rxCount != 0)
    ++ BitVec.ofBool e.txBusError ++ 0#1 ++ BitVec.ofBool e.txUnderrun ++ BitVec.ofBool (e.txCount != 0)) &&& e.mask

/-- The interrupt request to the commutator (66 R579). -/
def Ethernet.request (e : Ethernet) : Bool := e.interrupts != 0

/-- A packet counter after a write of its status register: bit 0 written as 1 takes one off (66 R578). -/
def ethernetAck (count : BitVec 8) (v : Word) : BitVec 8 :=
  if v.getLsbD 0 && count != 0 then count - 1 else count

/-- A read of an Ethernet register (66 R570); `upper` is the unspecified upper half of a MAC-side register and, with `free`,
gives the other bits of no stated value: those of a MAC-side register, and bits 31–1 of DMATxCtrl and DMARxCtrl, of which R577
gives bit 0 alone (93 U1). -/
def Ethernet.read (e : Ethernet) (off : Nat) (upper free : BitVec 16) : Option Word :=
  if h : off < 32 then some (upper ++ merge (ethernetUnstated off) free e.mac[off])
  else match off with
    | 0x60 => some (putBit (upper ++ free) 0 e.txEnable)
    | 0x61 => some e.txDescriptor
    | 0x62 => some e.txStatus
    | 0x63 => some (putBit (upper ++ free) 0 e.rxEnable)
    | 0x64 => some e.rxDescriptor
    | 0x65 => some e.rxStatus
    | 0x66 => some (e.mask.setWidth 32)
    | 0x67 => some (e.interrupts.setWidth 32)
    | _ => none

/-- DMATxCtrl written (66 R577): an enable that is set starts at the descriptor register. A side whose enable software clears
stops where it is, and begins anew when it is set again (DESIGN CHOICE, log 36). -/
def Ethernet.enableTx (e : Ethernet) (on : Bool) : Ethernet :=
  if on && !e.txEnable then { e with txEnable := true, txNext := e.txDescriptor, tx := .idle } else { e with txEnable := on }

/-- DMARxCtrl written (66 R577). -/
def Ethernet.enableRx (e : Ethernet) (on : Bool) : Ethernet :=
  if on && !e.rxEnable then { e with rxEnable := true, rxNext := e.rxDescriptor, rx := .idle } else { e with rxEnable := on }

/-- A write of an Ethernet register (66 R570, R577–R579). Bits 1–0 of the descriptor registers are stored and read back though
the controller ignores them (DESIGN CHOICE, log 36). -/
def Ethernet.write (e : Ethernet) (off : Nat) (v : Word) : Option Ethernet :=
  if h : off < 32 then
    if ethernetReadOnly off then some e
    else some { e with mac := e.mac.set off (v.extractLsb' 0 16 &&& ethernetMask off) }
  else match off with
    | 0x60 => some (e.enableTx (v.getLsbD 0))
    | 0x61 => some { e with txDescriptor := v }
    | 0x62 => some { e with txCount := ethernetAck e.txCount v
                            txUnderrun := e.txUnderrun && !v.getLsbD 1
                            txBusError := e.txBusError && !v.getLsbD 3 }
    | 0x63 => some (e.enableRx (v.getLsbD 0))
    | 0x64 => some { e with rxDescriptor := v }
    | 0x65 => some { e with rxCount := ethernetAck e.rxCount v
                            rxOverflow := e.rxOverflow && !v.getLsbD 2
                            rxBusError := e.rxBusError && !v.getLsbD 3 }
    | 0x66 => some { e with mask := v.extractLsb' 0 8 &&& 0xDB }
    | 0x67 => some e
    | _ => none

/-- The local-bus word of a device byte address: 0071 0000h + address / 4, inside the 16K words (66 R582). A packet or descriptor
that runs past the last word goes on at the first (DESIGN CHOICE, log 36). -/
def ethernetWord (a : Word) : Word := 0x00710000 + (a.extractLsb' 2 14).setWidth 32

/-- A bit of MAC1 (66 R571). -/
def Ethernet.mac1 (e : Ethernet) (i : Nat) : Bool := (e.mac[0]).getLsbD i

/-- The MAC transmits: no reset holds it, its control sublayer or its transmit function (66 R571). -/
def Ethernet.transmits (e : Ethernet) : Bool := !e.mac1 15 && !e.mac1 9 && !e.mac1 8

/-- The MAC receives: enabled, and no reset holds it, its control sublayer or its receive function (66 R571). -/
def Ethernet.receives (e : Ethernet) : Bool := e.mac1 0 && !e.mac1 15 && !e.mac1 11 && !e.mac1 10

/-- Consecutive words of the RAM from a device byte address. -/
def ethernetRead (m : List Host.Cell) (a : Word) : Nat → List Word
  | 0 => []
  | n + 1 => Memory.readWord m (ethernetWord a) :: ethernetRead m (a + 4) n

/-- The number of words of a packet of `bytes` bytes. -/
def ethernetWords (bytes : Nat) : Nat := (bytes + 3) / 4

/-- The packet size of a PacketSize word (66 R580). -/
def packetBytes (size : Word) : BitVec 12 := size.extractLsb' 0 12

/-! ### What the MAC makes of a packet (66 R572, R573, R580) -/

/-- A bit of MAC2 (66 R572). -/
def Ethernet.mac2 (e : Ethernet) (i : Nat) : Bool := (e.mac[1]).getLsbD i

/-- The octets of a word of a packet in order; which end is the first is open (log 36). -/
def ethernetOctets (w : Word) : List Byte :=
  let l := [w.extractLsb' 0 8, w.extractLsb' 8 8, w.extractLsb' 16 8, w.extractLsb' 24 8]
  if Config.ethernetLowFirst then l else l.reverse

/-- The word of four octets. -/
def ethernetPack (a b c d : Byte) : Word := if Config.ethernetLowFirst then d ++ c ++ b ++ a else a ++ b ++ c ++ d

/-- The words of octets; those missing in the last word are 0 (DESIGN CHOICE, log 36). -/
def ethernetJoin : List Byte → List Word
  | [] => []
  | [a] => [ethernetPack a 0 0 0]
  | [a, b] => [ethernetPack a b 0 0]
  | [a, b, c] => [ethernetPack a b c 0]
  | a :: b :: c :: d :: t => ethernetPack a b c d :: ethernetJoin t

/-- The octets of a frame. -/
def EthernetFrame.octets (f : EthernetFrame) : List Byte := (f.data.flatMap ethernetOctets).take f.bytes

/-- A frame cut to a number of bytes. -/
def EthernetFrame.cut (f : EthernetFrame) (n : Nat) : EthernetFrame :=
  ⟨min f.bytes n, f.data.take (ethernetWords (min f.bytes n))⟩

/-- The length up to which a frame is padded, by bits 7–5 of MAC2 and whether it is VLAN-tagged (66 R572, Table 7.6). -/
def ethernetPadTo (mode : BitVec 3) (tagged : Bool) : Nat :=
  if !mode.getLsbD 0 then 0 else if mode.getLsbD 1 || (mode.getLsbD 2 && tagged) then 64 else 60

/-- The frame is VLAN-tagged: 8100h behind the two addresses (66 R572). -/
def ethernetTagged (l : List Byte) : Bool := (l.drop 12).take 2 == [0x81, 0x00]

/-- The mode bits 7–4 of MAC2 append a CRC: CRC ENABLE, and PAD/CRC ENABLE (66 R572). -/
def ethernetAppends (mode : BitVec 4) : Bool := mode.getLsbD 0 || mode.getLsbD 1

/-- The octets of a packet as the MAC sends them, by the mode bits 7–4 of MAC2: padded, and with its CRC. A header of DELAYED CRC
goes before the frame and counts for neither (66 R572; that it does not count for the padding is DEDUCED, log 36). -/
def ethernetFramed (mode : BitVec 4) (header : Nat) (l : List Byte) : List Byte :=
  let body := l.drop header
  let missing := ethernetPadTo (mode.extractLsb' 1 3) (ethernetTagged body) - body.length
  let padded := body ++ (List.range missing).map Config.ethernetPad
  let crc := Config.ethernetCrc padded
  l.take header ++ padded ++
    if ethernetAppends mode then [crc.extractLsb' 0 8, crc.extractLsb' 8 8, crc.extractLsb' 16 8, crc.extractLsb' 24 8] else []

/-- The mode bits 7–4 for a packet: those of MAC2, or with FTPPEN those of its PacketSize word, FTPPADMODE and FTPPGENFCS (66 R572,
R580; DEDUCED, log 36). -/
def Ethernet.framing (e : Ethernet) (size : Word) : BitVec 4 :=
  if size.getLsbD 16 then Config.ethernetPadMode (size.extractLsb' 18 2) ++ size.extractLsb' 17 1 else (e.mac[1]).extractLsb' 4 4

/-- A frame within MAXF: with HUGE FRAME ENABLE frames of any length are sent and received; else one that is longer is cut there
(66 R572, R573; DESIGN CHOICE, log 36). -/
def Ethernet.limited (e : Ethernet) (f : EthernetFrame) : EthernetFrame := if e.mac2 2 then f else f.cut (e.mac[5]).toNat

/-- The frame that a packet becomes (66 R572, R573, R580). Where the MAC appends nothing it is the packet as it stands. -/
def Ethernet.framed (e : Ethernet) (size : Word) (data : List Word) : EthernetFrame :=
  let f : EthernetFrame := ⟨(packetBytes size).toNat, data⟩
  let mode := e.framing size
  e.limited (if ethernetAppends mode then
      let l := ethernetFramed mode (if e.mac2 3 then 4 else 0) f.octets
      ⟨l.length, ethernetJoin l⟩
    else f)

/-- A frame as it comes back in loop-back: with its CRC or without, which is open (66 R571, R582; log 36). -/
def EthernetFrame.looped (f : EthernetFrame) : EthernetFrame := if Config.ethernetStripsCrc then f.cut (f.bytes - 4) else f

/-! ### The receive FIFO (66 R582) -/

/-- The words in the receive FIFO. -/
def Ethernet.rxWords (e : Ethernet) : Nat := (e.rxFifo.map fun f => f.data.length).sum

/-- A frame from the line, or in loop-back from the transmitter, reaches the receive FIFO of 4K words, if the MAC receives
(66 R571, R582). One that comes while it does not, or that does not fit, is lost (DESIGN CHOICE, log 36). -/
def Ethernet.receive (e : Ethernet) (f : EthernetFrame) : Ethernet :=
  let f := e.limited { f with data := f.data.take (ethernetWords f.bytes) }
  if e.receives && decide (e.rxWords + f.data.length ≤ 4096) then { e with rxFifo := e.rxFifo ++ [f] } else e

/-! ### The controller: one access to the RAM in each move (66 R581, R582; 92 D70)

The order of the accesses to one descriptor is a DESIGN CHOICE (log 36). -/

/-- The transmit side with the words of a packet it has read: the packet stands in the transmit FIFO when all are there. One
packet at a time is in the FIFO, which therefore has room for it (66 R581). -/
def ethernetLoaded (size start : Word) (data : List Word) : EthernetTx :=
  if data.length < ethernetWords (packetBytes size).toNat then .loading size start data else .sending size data

/-- The transmit side has an access to make. -/
def Ethernet.txWants (e : Ethernet) : Bool :=
  e.txEnable && match e.tx with | .sending _ _ => false | _ => true

/-- The next access of the transmit side (66 R581). -/
def Ethernet.txAccess (e : Ethernet) (m : List Host.Cell) : Ethernet × List Host.Cell :=
  match e.tx with
  | .idle =>
      let size := Memory.readWord m (ethernetWord (e.txNext + 4))
      if size.getLsbD 31 then ({ e with txUnderrun := true, txEnable := false }, m) else ({ e with tx := .sized size }, m)
  | .sized size => ({ e with tx := ethernetLoaded size (Memory.readWord m (ethernetWord e.txNext)) [] }, m)
  | .loading size start data =>
      let v := Memory.readWord m (ethernetWord (start + BitVec.ofNat 32 (4 * data.length)))
      ({ e with tx := ethernetLoaded size start (data ++ [v]) }, m)
  | .sending _ _ => (e, m)
  | .sent size =>
      ({ e with tx := .marked, txCount := e.txCount + 1 },
        Memory.writeWord m (ethernetWord (e.txNext + 4)) (putBit size 31 true))
  | .marked => ({ e with tx := .idle, txNext := Memory.readWord m (ethernetWord (e.txNext + 8)) }, m)

/-- The packet in the transmit FIFO as the frame it is sent as, if the MAC transmits (66 R571, R572). -/
def Ethernet.outgoing (e : Ethernet) : Option (Word × EthernetFrame) :=
  match e.tx with
  | .sending size data => if e.transmits then some (size, e.framed size data) else none
  | _ => none

/-- The packet in the transmit FIFO has been sent; in loop-back it comes back through the receive side (66 R571, R581). -/
def Ethernet.transmitted (e : Ethernet) : Ethernet :=
  match e.outgoing with
  | none => e
  | some (size, f) =>
      let e := { e with tx := .sent size }
      if e.mac1 4 then e.receive f.looped else e

/-- The frame that leaves on the line then; none in loop-back. -/
def Ethernet.shown (e : Ethernet) : Option Output :=
  if e.mac1 4 then none else e.outgoing.map fun x => .ethernetFrame x.2.bytes x.2.data

/-- The receive side has an access to make. -/
def Ethernet.rxWants (e : Ethernet) : Bool := e.rxEnable && (e.rx != .idle || !e.rxFifo.isEmpty)

/-- The next access of the receive side, for the oldest packet of the FIFO, which leaves the FIFO when it is stored: one that
meets Empty Flag 0, a bus error or a cleared enable stays there (66 R582; DESIGN CHOICE, log 36). -/
def Ethernet.rxAccess (e : Ethernet) (m : List Host.Cell) : Ethernet × List Host.Cell :=
  match e.rx with
  | .idle =>
      let size := Memory.readWord m (ethernetWord (e.rxNext + 4))
      if size.getLsbD 31 then ({ e with rx := .sized size }, m) else ({ e with rxOverflow := true, rxEnable := false }, m)
  | .sized size => ({ e with rx := .storing size (Memory.readWord m (ethernetWord e.rxNext)) 0 }, m)
  | .storing size start done =>
      let f := e.rxFifo.headD ⟨0, []⟩
      match f.data[done]? with
      | some v =>
          ({ e with rx := .storing size start (done + 1) },
            Memory.writeWord m (ethernetWord (start + BitVec.ofNat 32 (4 * done))) v)
      | none =>
          ({ e with rx := .marked, rxFifo := e.rxFifo.tail, rxCount := e.rxCount + 1 },
            Memory.writeWord m (ethernetWord (e.rxNext + 4)) (putBit (putField size 0 12 (BitVec.ofNat 12 f.bytes)) 31 false))
  | .marked => ({ e with rx := .idle, rxNext := Memory.readWord m (ethernetWord (e.rxNext + 8)) }, m)

/-- One access of the controller, which its two sides share round-robin (66 R582), access by access (DESIGN CHOICE, log 36). -/
def Ethernet.access (e : Ethernet) (m : List Host.Cell) : Ethernet × List Host.Cell :=
  if e.txWants && (e.rxLast || !e.rxWants) then { e with rxLast := false }.txAccess m
  else if e.rxWants then { e with rxLast := true }.rxAccess m
  else (e, m)

/-- A bus error stops one side (66 R581, R582). -/
def Ethernet.busError (e : Ethernet) (receive : Bool) : Ethernet :=
  if receive then { e with rxBusError := true, rxEnable := false, rx := .idle }
  else { e with txBusError := true, txEnable := false, tx := .idle }

end Sys2Proof.Machine
end

