-- ==== Sys2Proof/Machine/Mil.lean ====
section
/-! DEFINITION. The MIL-STD-1553 device (spec 66 R600–R612): registers, interrupt scheme, the remote terminal with its
control cells, the monitor, and the commands of the controller. What they do with a message is a script of accesses to the RAM,
of which a move makes one (92 D70). The words other terminals put on a bus are inputs. The layout of the answer word beyond the fields the source names is that of MIL-STD-1553B (PRESUMED, log 38). -/

namespace Sys2Proof.Machine

/-- The RT address in use with its parity bit: ART or the straps (66 R603). -/
def Mil.address (m : Mil) : BitVec 6 := if m.cnr0.getLsbD 6 then m.straps else m.cnr0.extractLsb' 0 6

/-- The number of ones of the RT address is even: a parity error (66 R608). -/
def Mil.parityError (m : Mil) : Bool :=
  !(m.address.getLsbD 0 ^^ m.address.getLsbD 1 ^^ m.address.getLsbD 2 ^^ m.address.getLsbD 3 ^^ m.address.getLsbD 4
    ^^ m.address.getLsbD 5)

/-- INT_ER_ART is set while the address has a parity error (66 R608). -/
def Mil.checkParity (m : Mil) : Mil := if m.parityError then { m with isr := putBit m.isr 1 true } else m

/-- The interrupt request to the commutator (66 R608): the enables of IER against the ISR conditions. -/
def Mil.request (m : Mil) : Bool :=
  (m.ier.getLsbD 5 && m.isr.getLsbD 12) || (m.ier.getLsbD 4 && m.isr.getLsbD 11)
    || (m.ier.getLsbD 3 && m.isr.extractLsb' 3 8 != 0) || (m.ier.getLsbD 2 && m.isr.getLsbD 2)
    || (m.ier.getLsbD 1 && m.isr.getLsbD 1) || (m.ier.getLsbD 0 && m.isr.getLsbD 0)

/-- A write of ISR (66 R608): 1 clears; bit 11 counts down the monitor messages, bit 2 needs an empty ISIO, bit 1 an odd
address. -/
def Mil.acknowledge (m : Mil) (v : BitVec 13) : Mil :=
  let left := if v.getLsbD 11 then m.monitorCount - 1 else m.monitorCount
  let clear := v &&& ~~~0x806#13
  let isr := m.isr &&& ~~~clear
  let isr := if v.getLsbD 11 && left == 0 then putBit isr 11 false else isr
  let isr := if v.getLsbD 2 && m.isio.isEmpty then putBit isr 2 false else isr
  let isr := if v.getLsbD 1 && !m.parityError then putBit isr 1 false else isr
  { m with isr := isr, monitorCount := left }

/-- A read of a 1553 register (66 R602); `free` is the value of an empty ISIO or of the write-only RESET. -/
def Mil.read (m : Mil) (off : Nat) (free : BitVec 16) : Option (BitVec 16 × Mil) :=
  match off with
  | 0 => some (free, m)
  | 1 => some ((m.cnr0.extractLsb' 6 3 ++ m.address).setWidth 16, m)
  | 2 => some (m.cnr1.setWidth 16, m)
  | 3 => some (m.cnr2.setWidth 16, m)
  | 4 | 5 | 6 | 7 => some (m.acio.setWidth 16, m)
  | 8 => some (m.watch0, m)
  | 9 => some (m.watch1 &&& 0x7FF, m)
  | 10 => some (m.isr.setWidth 16, m)
  | 11 => match m.isio with
      | [] => some (free &&& 0xFFF, m)
      | v :: t => some (v.setWidth 16, { m with isio := t })
  | 12 => some (m.ier.setWidth 16, m)
  | 13 => some (m.bcw.setWidth 16, m)
  | _ => none

/-- RG_C, RG_RT, RG_M: the modes that are on (66 R604). -/
def Mil.controllerOn (m : Mil) : Bool := m.cnr1.getLsbD 0
def Mil.terminalOn (m : Mil) : Bool := m.cnr1.getLsbD 1
def Mil.monitorOn (m : Mil) : Bool := m.cnr1.getLsbD 2
/-- CC: the encoder is looped to the decoder and the buses are cut off (66 R604). -/
def Mil.loop (m : Mil) : Bool := m.cnr1.getLsbD 4
/-- NL: the line of the controller and the monitor (66 R604). -/
def Mil.line (m : Mil) : Bool := m.cnr1.getLsbD 5

/-- A write of ACIO starts the operation of its address in controller mode (66 R606); a command that starts clears BCW
(R609). It takes the place of an operation that is still running; a command completes though RG_C is cleared meanwhile, and a
cyclic output pauses until RG_C is 1 again (DESIGN CHOICE, log 38). -/
def Mil.start (m : Mil) (c : MilCommand) (v : BitVec 16) : Mil :=
  let m := { m with acio := v.extractLsb' 0 12 }
  if m.controllerOn then { m with command := c, bcw := if c = .io ∨ c = .exchange then 0 else m.bcw } else m

/-- A write of a 1553 register (66 R602–R609). -/
def Mil.write (m : Mil) (off : Nat) (v : BitVec 16) : Option Mil :=
  match off with
  | 0 => some (if v = 0 then (Mil.reset m.straps).checkParity else m)
  | 1 => some ({ m with cnr0 := v.extractLsb' 0 9 }).checkParity
  | 2 => some { m with cnr1 := v.extractLsb' 0 7 }
  | 3 => some { m with cnr2 := merge (v.extractLsb' 4 4) (v.extractLsb' 0 4) m.cnr2 }
  | 4 => some (m.start .io v)
  | 5 => some (m.start .exchange v)
  | 6 => some (m.start .cyclicCommand v)
  | 7 => some (m.start .cyclicData v)
  | 8 => some { m with watch0 := v }
  | 9 => some { m with watch1 := v &&& 0x7FF }
  | 10 => some (m.acknowledge (v.extractLsb' 0 13))
  | 11 | 13 => some m
  | 12 => some { m with ier := v.extractLsb' 0 6 }
  | _ => none

/-! ### Command words (66 R600, R601) -/

/-- Subaddress, CW[9–5]. -/
def cwSub (cw : BitVec 16) : Nat := bits cw 5 5
/-- Word count or mode code, CW[4–0]. -/
def cwCode (cw : BitVec 16) : Nat := bits cw 0 5
/-- The RT transmits: CW[10]. -/
def cwTransmit (cw : BitVec 16) : Bool := cw.getLsbD 10
/-- RT address 11111. -/
def cwBroadcast (cw : BitVec 16) : Bool := bits cw 11 5 == 31
/-- A mode command. -/
def cwMode (cw : BitVec 16) : Bool := cwSub cw == 0 || cwSub cw == 31
/-- The number of data words of a data command; a count of 0 is 32 (PRESUMED, log 38). -/
def cwCount (cw : BitVec 16) : Nat := if cwCode cw = 0 then 32 else cwCode cw

/-- The number of data words that belong to a command: a mode command with CW[4] = 1 has one. -/
def cwWords (cw : BitVec 16) : Nat := if cwMode cw then (if 16 ≤ cwCode cw then 1 else 0) else cwCount cw

/-- Whether the command word is one of R600 and R601: no data command to all that transmits, and a listed mode command, to
all only where that is allowed. BLTRI and RBLTRI, whose broadcast column is blank, are allowed to all (DESIGN CHOICE, log 38). -/
def cwAdmissible (cw : BitVec 16) : Bool :=
  if !cwMode cw then !(cwTransmit cw && cwBroadcast cw)
  else if cwTransmit cw then
    (cwCode cw == 1 || (3 ≤ cwCode cw && cwCode cw ≤ 8))
      || (!cwBroadcast cw && (cwCode cw == 0 || cwCode cw == 2 || cwCode cw == 16 || cwCode cw == 18 || cwCode cw == 19))
  else cwCode cw == 17 || cwCode cw == 20 || cwCode cw == 21

/-! ### The RAM of the device (66 R610) -/

/-- The local-bus address of a RAM cell. -/
def milCell (i : BitVec 12) : Word := 0x00501000 + i.setWidth 32

/-- A RAM cell; past BFFh, where there is none, a free value (log 38). -/
def milRead (m : List Host.Cell) (i : BitVec 12) : BitVec 16 :=
  if i.toNat < 0xC00 then (Memory.readWord m (milCell i)).extractLsb' 0 16 else Config.milBeyond i

/-- The memory with a RAM cell written; there are C00h cells, and a write past them is lost (DESIGN CHOICE, log 38). -/
def milWrite (m : List Host.Cell) (i : BitVec 12) (v : BitVec 16) : List Host.Cell :=
  if i.toNat < 0xC00 then Memory.writeWord m (milCell i) (v.setWidth 32) else m

/-! ### Scripts: what the device does with a message, access by access (92 D70) -/

/-- What a script does besides its accesses to the RAM, together with the access before it. -/
inductive MilEffect where
  /-- An ISR bit is set. -/
  | raise (i : Nat)
  /-- A word goes into ISIO (66 R609); a ninth one is dropped. -/
  | queue (v : BitVec 12)
  /-- BLTR or RBLTR on a line changes the block bit of the other line (66 R605). -/
  | block (line on : Bool)
  /-- BLER or RBLER (66 R601). -/
  | faultBlock (on : Bool)
  /-- BCW_RT takes a code (66 R611). -/
  | testWord (v : BitVec 5)
  /-- The monitor has stored a message; it goes on at a cell (66 R608, R611). -/
  | monitored (next : BitVec 12)
  /-- A word of a command has been fetched: ACIO goes on (66 R606). -/
  | fetched
  /-- A command of the controller has ended with a cause (66 R608, R609). -/
  | ended (cause : BitVec 5)
  /-- Words are seen on a bus. -/
  | shown (line : Bool) (words : List (BitVec 16))

/-- A script: it ends, reads or writes a cell, has an effect, or waits for the end of a command on the bus, where it learns what
was on the bus and the registers as they are then. -/
inductive MilScript (α : Type) where
  | done (a : α)
  | read (i : BitVec 12) (k : BitVec 16 → MilScript α)
  | write (i : BitVec 12) (v : BitVec 16) (k : MilScript α)
  | effect (e : MilEffect) (k : MilScript α)
  | await (k : MilBus → Mil → MilScript α)

/-- A script, and another behind it. -/
def MilScript.bind {α β : Type} : MilScript α → (α → MilScript β) → MilScript β
  | .done a, f => f a
  | .read i k, f => .read i fun v => (k v).bind f
  | .write i v k, f => .write i v (k.bind f)
  | .effect e k, f => .effect e (k.bind f)
  | .await k, f => .await fun b now => (k b now).bind f

/-- One cell read. -/
def milLoad (i : BitVec 12) : MilScript (BitVec 16) := .read i .done

/-- One cell written. -/
def milPut (i : BitVec 12) (v : BitVec 16) : MilScript Unit := .write i v (.done ())

/-- Consecutive cells read. -/
def milLoads (i : BitVec 12) : Nat → MilScript (List (BitVec 16))
  | 0 => .done []
  | n + 1 => (milLoad i).bind fun v => (milLoads (i + 1) n).bind fun l => .done (v :: l)

/-- Consecutive cells written, in the order `next` gives; the cell behind them. -/
def milStores (next : BitVec 12 → BitVec 12) (i : BitVec 12) : List (BitVec 16) → MilScript (BitVec 12)
  | [] => .done i
  | v :: t => .write i v (milStores next (next i) t)

/-- A script where a condition holds, else nothing. -/
def milWhen (b : Bool) (x : MilScript Unit) : MilScript Unit := if b then x else .done ()

/-- Words seen on a bus. -/
def milShow (line : Bool) (words : List (BitVec 16)) : MilScript Unit :=
  if words.isEmpty then .done () else .effect (.shown line words) (.done ())

/-! ### The remote terminal (66 R603, R604, R608–R610) -/

/-- What a terminal does with a command: the registers after it, and what it sends, an answer word and data words. -/
structure MilReply where
  mil : Mil
  answer : Option (BitVec 16)
  data : List (BitVec 16)

/-- The RT takes a command word: its mode is on, the word has its address or is a broadcast that BLGRC lets in, and CW[9] is
1 where AB asks for it. A parity error of the RT address does not keep it from answering (DESIGN CHOICE, log 38). -/
def Mil.accepts (m : Mil) (cw : BitVec 16) : Bool :=
  m.terminalOn && (!m.cnr1.getLsbD 3 || cw.getLsbD 9)
    && (if cwBroadcast cw then !m.cnr0.getLsbD 8 else cw.extractLsb' 11 5 == m.address.extractLsb' 1 5)

/-- The answer word: address, RQS in bit 8, ERA in bit 2, BUSY in bit 3 and the acceptance of bus control in bit 1. -/
def Mil.answer (m : Mil) (busy accepted : Bool) : BitVec 16 :=
  m.address.extractLsb' 1 5 ++ 0#2 ++ bitOf m.cnr2 0 ++ 0#4 ++ BitVec.ofBool busy ++ bitOf m.cnr2 1 ++ BitVec.ofBool accepted
    ++ 0#1

/-- The transmitter of a line is not blocked (66 R605). In loop-back, where nothing is sent to a line, a block stops neither the
terminal nor the controller (DESIGN CHOICE, log 38). -/
def Mil.mayTransmit (m : Mil) (line : Bool) : Bool := m.loop || !m.cnr2.getLsbD (if line then 3 else 2)

/-- The block bit of the other line, as BLTR and RBLTR on `line` change it (66 R605). -/
def Mil.block (m : Mil) (line on : Bool) : Mil := { m with cnr2 := putBit m.cnr2 (if line then 2 else 3) on }

/-- An ISR bit set. -/
def Mil.raise (m : Mil) (i : Nat) : Mil := { m with isr := putBit m.isr i true }

/-- The registers after an effect. -/
def MilEffect.apply (m : Mil) : MilEffect → Mil
  | .raise i => m.raise i
  | .queue v => { m with isio := if m.isio.length < 8 then m.isio ++ [v] else m.isio }
  | .block line on => m.block line on
  | .faultBlock on => { m with faultBlocked := on }
  | .testWord v => { m with bcwRt := v }
  | .monitored next => { m.raise 11 with monitorNext := next, monitorCount := m.monitorCount + 1 }
  | .fetched => { m with acio := m.acio + 1 }
  | .ended cause => { m.raise 0 with bcw := cause, command := .none }
  | .shown _ _ => m

/-- An effect as a script, with the registers after it. -/
def Mil.change (m : Mil) (e : MilEffect) : MilScript Mil := .effect e (.done (e.apply m))

/-- An RC or TR completes whose control cell has RGINT: INT_IO, and a word in ISIO (66 R608, R609). -/
def Mil.completed (m : Mil) (cw : BitVec 16) : MilScript Mil :=
  let v : BitVec 12 := bitOf cw 10 ++ BitVec.ofBool (cwBroadcast cw) ++ cw.extractLsb' 0 10
  (m.change (.raise 2)).bind fun n => n.change (.queue v)

/-- The control cell of a data command (66 R610). -/
def cwCell (cw : BitVec 16) : BitVec 12 :=
  BitVec.ofNat 12 (cwSub cw + if cwTransmit cw then 0x20 else if cwBroadcast cw then 0x40 else 0)

/-- A data command (66 R610): with RGF the flag F may refuse it with BUSY, and changes when all words are stored or sent. A TR
over a blocked transmitter is not done (66 R605). -/
def Mil.dataCommand (m : Mil) (line : Bool) (cw : BitVec 16) (data : List (BitVec 16)) : MilScript MilReply :=
  (milLoad (cwCell cw)).bind fun c =>
    let tr := cwTransmit cw
    let am := c.extractLsb' 0 12
    let finish (sent : List (BitVec 16)) : MilScript MilReply :=
      (milWhen (c.getLsbD 13) (milPut (cwCell cw) (putBit c 15 (!tr)))).bind fun _ =>
        (if c.getLsbD 14 then m.completed cw else .done m).bind fun n => .done ⟨n, some (m.answer false false), sent⟩
    if c.getLsbD 13 && (c.getLsbD 15 != tr) then .done ⟨m, some (m.answer true false), []⟩
    else if tr && !m.mayTransmit line then .done ⟨m, none, []⟩
    else if tr then (milLoads am (cwCount cw)).bind finish
    else (milStores (· + 1) am (data.take (cwCount cw))).bind fun _ => finish []

/-- A mode command (66 R601, R605, R608, R610). TRAW forms the answer word anew, without BUSY: whether it returns that of the
last command instead is not stated (DESIGN CHOICE, log 38). BLTRI and RBLTRI leave their word in DW_RT and set their ISR bit;
how they name a transmitter is not stated, and they block none (DESIGN CHOICE, log 38). TRBCW returns BCW_RT, whose bits 15–5
66 R611 does not give: they are open (DESIGN CHOICE, log 38). -/
def Mil.modeCommand (m : Mil) (line : Bool) (cw : BitVec 16) (data : List (BitVec 16)) : MilScript MilReply :=
  let reply (accepted : Bool) (words : List (BitVec 16)) (n : Mil) : MilScript MilReply :=
    .done ⟨n, some (m.answer false accepted), words⟩
  let plain (e : MilEffect) : MilScript MilReply := (m.change e).bind (reply false [])
  let stored (i : Nat) : MilScript MilReply := (milPut 0x20 (data.headD 0)).bind fun _ => plain (.raise i)
  match cwCode cw with
  | 0 => if m.cnr0.getLsbD 7 then (m.change (.raise 7)).bind (reply true []) else reply false [] m
  | 1 => plain (.raise 3)
  | 3 => plain (.raise 6)
  | 4 => plain (.block line true)
  | 5 => plain (.block line false)
  | 6 => plain (.faultBlock true)
  | 7 => plain (.faultBlock false)
  | 8 => plain (.raise 8)
  | 16 => (milLoad 0x40).bind fun v => (m.change (.raise 5)).bind (reply false [v])
  | 17 => stored 4
  | 18 => (milLoad 0).bind fun v => reply false [v] m
  | 19 => reply false [Config.milTestUpper m.bcwRt ++ m.bcwRt] m
  | 20 => stored 9
  | 21 => stored 10
  | _ => reply false [] m

/-- The RT has received a command word it takes: LCW holds it, unless it is TRLCW (66 R610). -/
def Mil.noted (m : Mil) (cw : BitVec 16) : MilScript Unit :=
  milWhen (m.accepts cw && !(cwMode cw && cwTransmit cw && cwCode cw == 18)) (milPut 0 cw)

/-- The error the RT finds in a message, 0 for none (66 R611): an inadmissible command word, one on the line, or fewer or more
data words than a receive command says. That an inadmissible word goes before an error on the line is a DESIGN CHOICE (log 38). -/
def rtFault (cw : BitVec 16) (data : List (BitVec 16)) (error : BitVec 5) : BitVec 5 :=
  if !cwAdmissible cw then 1
  else if error != 0 then error
  else if cwTransmit cw then 0
  else if data.length < cwWords cw then 3
  else if cwWords cw < data.length then 4 else 0

/-- The RT on one command word it has received (66 R603, R604, R610, R611): nothing if it does not take it; an error is left in
BCW_RT, and the command neither done nor answered; else the command is done, and answered unless it is a broadcast or the line
is blocked. A command without an error leaves BCW_RT as it is (DESIGN CHOICE, log 38). Over a blocked transmitter a mode command is
done all the same, TRVW and an accepted RCCC too, with their ISR bits, and only its answer and word do not leave, while a TR is
not done (`Mil.dataCommand`): 66 R605 and R608 do not say (DESIGN CHOICE, log 38). -/
def Mil.terminal (m : Mil) (line : Bool) (cw : BitVec 16) (data : List (BitVec 16)) (error : BitVec 5) : MilScript MilReply :=
  let fault := rtFault cw data error
  if !m.accepts cw then .done ⟨m, none, []⟩
  else if fault != 0 then (m.change (.testWord fault)).bind fun n => .done ⟨n, none, []⟩
  else
    (if cwMode cw then m.modeCommand line cw data else m.dataCommand line cw data).bind fun r =>
      .done (if cwBroadcast cw || !r.mil.mayTransmit line then { r with answer := none, data := [] } else r)

/-! ### Errors the words of a message show (66 R609, R611) -/

/-- An error that the words of a message show by themselves. -/
inductive MilFault where | inadmissible | aw1 | aw2 | fewer | more
deriving DecidableEq, Repr

/-- The completion cause it is to the controller (66 R609). -/
def MilFault.cause : MilFault → BitVec 5
  | .inadmissible => 0b00010 | .aw1 => 0b00011 | .aw2 => 0b00100 | .fewer => 0b00110 | .more => 0b00111

/-- The code CER it is to the monitor (66 R611). -/
def MilFault.monitorCode : MilFault → BitVec 4
  | .inadmissible => 0b1110 | .aw1 => 0b1000 | .aw2 => 0b1001 | .fewer => 0b0011 | .more => 0b0100

/-- Two command words that form an exchange: an RC and a TR (66 R600). -/
def cwExchange (cw cw2 : BitVec 16) : Bool :=
  !cwMode cw && !cwTransmit cw && !cwMode cw2 && cwTransmit cw2 && !cwBroadcast cw2

/-- Fewer or more data words than the command word says. -/
def MilMessage.countFault (g : MilMessage) : Option MilFault :=
  if g.data.length < cwWords g.cw then some .fewer else if cwWords g.cw < g.data.length then some .more else none

/-- Fewer than `n` answer words. -/
def MilMessage.unanswered (g : MilMessage) (n : Nat) (f : MilFault) : Option MilFault :=
  if g.answers.length < n then some f else none

/-- The first error the words of a message show, in bus order: inadmissible command words; the answer of a transmitting
terminal, before the data; the count of the data; the answer of a receiving one, after them. A broadcast has no such answer. -/
def MilMessage.fault (g : MilMessage) : Option MilFault :=
  let own := if cwBroadcast g.cw then 0 else 1
  match g.cw2 with
  | some c =>
      if !cwExchange g.cw c then some .inadmissible
      else (g.unanswered 1 .aw2).or (g.countFault.or (g.unanswered (1 + own) .aw1))
  | none =>
      if !cwAdmissible g.cw then some .inadmissible
      else if cwTransmit g.cw then (g.unanswered own .aw1).or g.countFault
      else g.countFault.or (g.unanswered own .aw1)

/-! ### The monitor (66 R611) -/

/-- The message type TS of SWM. Two kinds of inadmissible command words have none in the table of 66 R611, a broadcast TR and a
broadcast mode word with CW[10] = 1 and CW[4] = 1: theirs is open (DESIGN CHOICE, log 38). Every other mode word has the type of its
CW[10], CW[4] and address, and an inadmissible pair that of an exchange (DESIGN CHOICE, log 38). -/
def milType (cw : BitVec 16) (exchange : Bool) : BitVec 4 :=
  if exchange then (if cwBroadcast cw then 0b0111 else 0b0011)
  else if cwBroadcast cw && cwTransmit cw && (!cwMode cw || 16 ≤ cwCode cw) then Config.milTypeUnlisted cw
  else if !cwMode cw then (if cwTransmit cw then 0b0010 else if cwBroadcast cw then 0b0101 else 0b0001)
  else if cwCode cw < 16 then (if cwBroadcast cw then 0b1100 else 0b1000)
  else if cwTransmit cw then 0b1010
  else if cwBroadcast cw then 0b1101 else 0b1001

/-- The words of a message in bus order: the answer of a transmitting terminal goes before the data. -/
def MilMessage.words (g : MilMessage) : List (BitVec 16) :=
  match g.cw2 with
  | some c => g.cw :: c :: (g.answers.take 1 ++ g.data ++ g.answers.drop 1)
  | none => g.cw :: if cwTransmit g.cw then g.answers ++ g.data else g.data ++ g.answers

/-- The cell behind a cell of the monitor area. -/
def monitorStep (i : BitVec 12) : BitVec 12 := if i = 0xBFF then 0x800 else i + 1

/-- CER of SWM: an inadmissible command word, whatever else is found (DESIGN CHOICE, log 38); the error found on the line; else
what the words show. -/
def MilMessage.errorCode (g : MilMessage) : BitVec 4 :=
  match g.fault with
  | some .inadmissible => MilFault.inadmissible.monitorCode
  | f => if g.monitorError != 0 then g.monitorError else (f.map MilFault.monitorCode).getD 0

/-- The monitor, if it is on and the message is on its line, stores SWM, the words and the time (66 R608, R611). -/
def Mil.monitored (m : Mil) (g : MilMessage) : MilScript Mil :=
  if m.monitorOn && g.line == m.line then
    let words := g.words
    let swm : BitVec 16 := BitVec.ofBool (g.errorCode != 0) ++ g.errorCode ++ BitVec.ofBool g.line
      ++ milType g.cw g.cw2.isSome ++ BitVec.ofNat 6 (words.length + 3)
    (milStores monitorStep m.monitorNext (swm :: words ++ [m.watch0, m.watch1])).bind fun next => m.change (.monitored next)
  else .done m

/-- The rest of a message behind what the terminal has put into it: its words are seen on the bus, but in loop-back, and the
monitor stores the whole. -/
def Mil.passed (m : Mil) (g : MilMessage) (said : List (BitVec 16)) : MilScript (Mil × MilMessage) :=
  (milShow g.line (if m.loop then [] else said)).bind fun _ => (m.monitored g).bind fun n => .done (n, g)

/-- A message as the device hears it: the terminal receives its command words in order and adds its answers and data, then the
monitor stores the whole. A receiving terminal of an exchange misses AW2 where no transmitting one answers (66 R611). -/
def Mil.hear (m : Mil) (g : MilMessage) : MilScript (Mil × MilMessage) :=
  (m.noted g.cw).bind fun _ =>
    match g.cw2 with
    | none =>
        (m.terminal g.line g.cw g.data g.rtError).bind fun r =>
          r.mil.passed { g with answers := r.answer.toList ++ g.answers, data := g.data ++ r.data } (r.answer.toList ++ r.data)
    | some c =>
        (m.noted c).bind fun _ => (m.terminal g.line c [] g.rtError).bind fun r =>
          let h := { g with answers := r.answer.toList ++ g.answers, data := g.data ++ r.data }
          (r.mil.terminal g.line g.cw h.data
              (if g.rtError = 0 ∧ h.answers.isEmpty = true then 0b01000 else g.rtError)).bind fun q =>
            q.mil.passed { h with answers := h.answers ++ q.answer.toList } (r.answer.toList ++ r.data ++ q.answer.toList)

/-! ### The controller (66 R606, R609–R612) -/

/-- The second word of an I/O command is a RAM address: a data command, or a mode command with a word from the controller. An
inadmissible mode word with CW[10] = 0 and CW[4] = 1 is taken for one, with one data word (66 R611; DESIGN CHOICE, log 38). -/
def cwAddressed (cw : BitVec 16) : Bool := !cwMode cw || (!cwTransmit cw && 16 ≤ cwCode cw)

/-- What a command leaves in RAM (66 R610): AW1, in an exchange that of the receiving terminal; DW_C, the answer of the
transmitting one or the word a mode command returns; the words of a TR at the address of the command. -/
def milResults (g : MilMessage) (at' : BitVec 12) : MilScript Unit :=
  let aw1 := if g.cw2.isSome then (if cwBroadcast g.cw then none else g.answers[1]?) else g.answers.head?
  let dwc := if g.cw2.isSome then g.answers.head?
    else if cwMode g.cw && cwTransmit g.cw then g.data.head? else none
  let put (i : BitVec 12) : Option (BitVec 16) → MilScript Unit
    | some v => milPut i v
    | none => .done ()
  (put 0x60 aw1).bind fun _ => (put 0x61 dwc).bind fun _ =>
    milWhen (cwTransmit g.cw && !cwMode g.cw && !g.cw2.isSome)
      ((milStores (· + 1) at' (g.data.take (cwCount g.cw))).bind fun _ => .done ())

/-- The completion cause of a command (66 R609): an inadmissible command word, whatever else is found (DESIGN CHOICE, log 38); an
error found on the line; else what the words show. -/
def milCause (g : MilMessage) (found : BitVec 5) : BitVec 5 :=
  match g.fault with
  | some .inadmissible => MilFault.inadmissible.cause
  | f => if found != 0 then found else (f.map MilFault.cause).getD 0

/-- The controller's words reach a bus: not in loop-back (66 R604), nor over a blocked transmitter (R605). -/
def Mil.reaches (m : Mil) : Bool := !m.loop && m.mayTransmit m.line

/-- A command of the controller behind its fetch (66 R608–R612), `at'` being the RAM address of its data. When it ends on the
bus its words are seen there, and the answers and data come from the bus, or in loop-back from the device's own terminal, where
EXP spoils the parity of every word. Over a blocked transmitter nobody answers, and the returned word does not start (DEDUCED,
log 38). Outside loop-back the device's own terminal and monitor hear the message only as a move of the bus (DESIGN CHOICE, log
38). The error the controller itself finds, which `cause` gives, is an input in loop-back too, a RAM read error or, with EXP,
the parity error of an answer among them, and so are the errors its own terminal and monitor find there, but that with EXP it is
the parity error for both (DESIGN CHOICE, log 38). In loop-back the device hears the message with CNR1 as it was at
the beginning of the command and all else as it is at its end, so that the monitor goes on where the message before has left it
(66 R611; DESIGN CHOICE, log 38). -/
def Mil.execute (m : Mil) (g : MilMessage) (at' : BitVec 12) : MilScript Unit :=
  .await fun b now =>
    (milShow g.line (if m.reaches then g.words else [])).bind fun _ =>
      (if m.loop then { now with cnr1 := m.cnr1 }.hear (
          if m.cnr1.getLsbD 6 then { g with rtError := 0b01010, monitorError := 0b1100 }
          else { g with rtError := b.rtError, monitorError := b.monitorError })
        else if m.reaches then .done (m, { g with answers := b.answers, data := g.data ++ b.data })
        else .done (m, g)).bind fun x =>
        (milResults x.2 at').bind fun _ =>
          .effect (.ended (milCause x.2 (if m.loop || m.reaches then b.cause else 0b01110))) (.done ())

/-- The word of a command at ACIO, which goes on by one (66 R606). -/
def Mil.fetch (m : Mil) : MilScript (Mil × BitVec 16) :=
  (milLoad m.acio).bind fun v => (m.change .fetched).bind fun n => .done (n, v)

/-- The command that ACIO names (66 R606, R611): its command word; its second word and the data it sends where it has them, or
the second command word of an exchange; then what follows on the bus. -/
def Mil.script (m : Mil) : MilScript Unit :=
  m.fetch.bind fun (m, cw) =>
    let g : MilMessage := ⟨m.line, cw, none, [], [], 0, 0⟩
    if m.command = .exchange then m.fetch.bind fun (m, cw2) => m.execute { g with cw2 := some cw2 } 0
    else if cwAddressed cw then
      m.fetch.bind fun (m, second) =>
        let at' := second.extractLsb' 0 12
        (milLoads at' (if cwTransmit cw then 0 else if cwMode cw then 1 else cwCount cw)).bind fun data =>
          m.execute { g with data := data } at'
    else m.execute g 0

/-! ### Jobs: scripts in progress -/

/-- A script without its leading effects. -/
def MilScript.settled {α : Type} : MilScript α → MilScript α
  | .effect _ k => k.settled
  | x => x

/-- The leading effects of a script. -/
def MilScript.effects {α : Type} : MilScript α → List MilEffect
  | .effect e k => e :: k.effects
  | _ => []

/-- What is left of a script behind what it has done; its next step is no effect. -/
def MilScript.resume {α : Type} : MilScript α → List MilSeen → MilScript α
  | .effect _ k, l => k.resume l
  | .read _ k, .word v :: l => (k v).resume l
  | .write _ _ k, .word _ :: l => k.resume l
  | .await k, .bus b now :: l => (k b now).resume l
  | x, _ => x

/-- The script of a job. -/
def MilJob.script (j : MilJob) : MilScript Unit :=
  match j.work with
  | .command => j.mil.script
  | .message g => (j.mil.hear g).bind fun _ => .done ()

/-- What is left of a job. -/
def MilJob.rest (j : MilJob) : MilScript Unit := j.script.resume j.seen

/-- A job that has done one thing more, unless that was its end. -/
def MilJob.after (j : MilJob) (x : MilSeen) (k : MilScript Unit) : Option MilJob :=
  match k.settled with
  | .done _ => none
  | _ => some { j with seen := j.seen ++ [x] }

/-- What one move of a job leaves: the effects, the job, and the memory. -/
structure MilMove where
  effects : List MilEffect
  job : Option MilJob
  mem : List Host.Cell

/-- One access of a job to the RAM. -/
def MilJob.access (j : MilJob) (mem : List Host.Cell) : MilMove :=
  match j.rest with
  | .read i k => let v := milRead mem i; ⟨(k v).effects, j.after (.word v) (k v), mem⟩
  | .write i v k => ⟨k.effects, j.after (.word v) k, milWrite mem i v⟩
  | .await _ => ⟨[], some j, mem⟩
  | _ => ⟨[], none, mem⟩

/-- The command of the controller ends on the bus, which it can when its words have been fetched; `now` are the registers then. -/
def MilJob.replied (j : MilJob) (b : MilBus) (now : Mil) (mem : List Host.Cell) : MilMove :=
  match j.rest with
  | .await k => ⟨(k b now).effects, j.after (.bus b now) (k b now), mem⟩
  | _ => ⟨[], some j, mem⟩

/-- The end of a command on the bus. -/
def MilSeen.isBus : MilSeen → Bool
  | .bus .. => true
  | .word _ => false

/-- The job is at a message that the terminal and the monitor hear: a command is from its end on the bus on, in loop-back. -/
def MilJob.hears (j : MilJob) : Bool :=
  match j.work with
  | .message _ => true
  | .command => j.mil.loop && j.seen.any MilSeen.isBus

/-- The command of the controller that goes on: the job in progress, or one that the registers name and that has not begun. -/
def milCommandJob (m : Mil) : Option MilJob → Option MilJob
  | some j => some j
  | none => if m.command = .io ∨ m.command = .exchange then some ⟨.command, m, []⟩ else none

/-- A message heard: its job begins, with the registers as they are then. -/
def Mil.heard (m : Mil) (g : MilMessage) (mem : List Host.Cell) : MilMove :=
  let j : MilJob := ⟨.message g, m, []⟩
  ⟨j.script.effects, match j.script.settled with | .done _ => none | _ => some j, mem⟩

/-- What the effects of a script show on the buses. -/
def milOutputs (l : List MilEffect) : List Output :=
  l.filterMap fun e => match e with | .shown line words => some (.milWords line words) | _ => none

/-! ### Cyclic output (66 R606) -/

/-- The code of the running cyclic output, fetched anew for every burst, and whether its sync is that of a data word (66
R606). -/
def Mil.burst? (m : Mil) (mem : List Host.Cell) : Option (Bool × BitVec 16) :=
  if !m.controllerOn then none
  else match m.command with
    | .cyclicCommand => some (false, milRead mem m.acio)
    | .cyclicData => some (true, milRead mem m.acio)
    | _ => none

/-- The message that one burst of a cyclic output is to the device's own terminal and monitor in loop-back: a command word without
a pause after it; words with data syncs, which no command word precedes, are none (DEDUCED, log 38). -/
def Mil.burstHeard (m : Mil) (mem : List Host.Cell) : Option MilMessage :=
  match m.burst? mem with
  | some (false, cw) => if m.loop then some ⟨m.line, cw, none, [], [], 0b00010, 0b0001⟩ else none
  | _ => none

/-- What is seen of a burst on a bus. -/
def Mil.burstShown (m : Mil) (mem : List Host.Cell) : List Output :=
  match m.burst? mem with
  | some (sync, code) => if m.reaches then [.milCode m.line sync code] else []
  | none => []

end Sys2Proof.Machine
end

