-- ==== Sys2Proof/Machine/Port.lean ====
section
/-! DEFINITION. The communication ports (spec 65 R510–R518), word by word: a word moves in one event, and the token
passes between words (R514–R516). -/

namespace Sys2Proof.Machine

/-- The coding of a FIFO level (65 R511): 0–7, or 1111 for eight words. -/
def levelCode (n : Nat) : BitVec 4 := if 8 ≤ n then 0xF else BitVec.ofNat 4 n

/-- The port control register (65 R511) without its undefined bits 31–13. -/
def Port.control (p : Port) : Word :=
  let c := putBit (0 : Word) 2 p.input
  let c := putBit c 3 p.ich
  let c := putBit c 4 p.och
  let c := putField c 5 4 (levelCode p.outFifo.length)
  putField c 9 4 (levelCode p.inFifo.length)

/-- The input FIFO is full (65 R512). -/
def Port.icFull (p : Port) : Bool := decide (8 ≤ p.inFifo.length)
/-- The input FIFO holds a word (65 R512). -/
def Port.icRdy (p : Port) : Bool := !p.inFifo.isEmpty
/-- The output FIFO has a free level (65 R512). -/
def Port.ocRdy (p : Port) : Bool := decide (p.outFifo.length < 8)
/-- The output FIFO is empty (65 R512). -/
def Port.ocEmpty (p : Port) : Bool := p.outFifo.isEmpty

/-- The port's arbiter between words (65 R515, R516). Without the token a port whose output FIFO holds a word asks for it,
unless halted (state 1 to 3). With it, in the middle of a word nothing changes; between words a pending request of the other
side is answered by passing the token, unless the input is full; else the next word begins, unless the output is halted (state
0 to 2). -/
def Port.arbitrate (p : Port) : Port :=
  let wants := !p.outFifo.isEmpty && !p.och
  if p.input then { p with creq := p.creq || wants }
  else if p.sending then p
  else if p.asked && !p.icFull then { p with input := true, asked := false, creq := p.creq || wants }
  else { p with sending := wants }

/-- A write of CPCR: ICH and OCH (65 R511, R516). -/
def Port.writeControl (p : Port) (v : Word) : Port :=
  Port.arbitrate { p with ich := v.getLsbD 3, och := v.getLsbD 4, grace := v.getLsbD 3 && (p.grace || !p.ich) }

/-- The software reset: both FIFOs become empty (65 R510). The word being sent is broken off, and a request that has been seen
is then answered as between words (DESIGN CHOICE, log 30). -/
def Port.clear (p : Port) : Port := Port.arbitrate { p with outFifo := [], inFifo := [], sending := false }

/-- A word written to the output FIFO. -/
def Port.push (p : Port) (v : Word) : Port := Port.arbitrate { p with outFifo := p.outFifo ++ [v] }

/-- The oldest word of the input FIFO read. -/
def Port.pop (p : Port) : Port := Port.arbitrate { p with inFifo := p.inFifo.tail }

/-- A word arrives (65 R514, R516): taken by an input port that is neither full nor halted. -/
def Port.receive (p : Port) (v : Word) : Port :=
  if p.input && !p.icFull && (!p.ich || p.grace) then { p with inFifo := p.inFifo ++ [v], grace := false } else p

/-- The word in transmission has been sent (65 R515, R516): one already begun is finished whatever OCH says by then, and the
arbiter looks for a request before the next. -/
def Port.send (p : Port) : Port :=
  if p.sending then Port.arbitrate { p with outFifo := p.outFifo.tail, sending := false } else p

/-- The word a port has transmitted in `Port.send`. -/
def Port.sent (p : Port) : Option Word := if p.sending then p.outFifo.head? else none

/-- The other side asks for the token (65 R515, R516): a port whose input is halted does not see the request, but answers one
it saw before the halt. -/
def Port.ask (p : Port) : Port :=
  if p.input then p else Port.arbitrate { p with asked := p.asked || !p.ich }

/-- The other side grants a requested token (65 R515): the port sends a word before it passes the token again, unless its
output has been halted since (R516). -/
def Port.grant (p : Port) : Port :=
  if p.input && p.creq then Port.arbitrate { p with input := false, creq := false } else p

/-- Port `k` of the devices updated. -/
def Devices.setPort (d : Devices) (k : Fin 6) (p : Port) : Devices := { d with ports := d.ports.set k p }

end Sys2Proof.Machine
end

