-- ==== Sys2Proof/Machine/Timer.lean ====
section
/-! DEFINITION. The timers (spec 65 R500–R505). -/

namespace Sys2Proof.Machine

/-- The IIF bit of a timer's interrupt (10 R44). -/
def timerFlag (n : Fin 2) : Nat := if n = 0 then 24 else 31

/-- A control bit of a timer. -/
def Timer.bit (t : Timer) (i : Nat) : Bool := t.control.getLsbD i

/-- The value on the TCLK pin as DATIN reads it (65 R505); `pin` is the level outside. -/
def Timer.datin (t : Timer) (pin : Bool) : Bool :=
  if !t.bit 0 then (if t.bit 1 then t.bit 2 else pin)
  else if t.bit 9 then (t.bit 11 != t.bit 10) else pin

/-- A timer event (65 R504): TSTAT is set in pulse mode and toggles in clock mode. The second component tells whether
TSTAT went from 0 to 1, which raises the interrupt. -/
def Timer.event (t : Timer) : Timer × Bool :=
  let now := if t.bit 8 then !t.bit 11 else true
  ({ t with control := putBit t.control 11 now }, !t.bit 11 && now)

/-- An active edge of the timer's input clock (65 R501, R502, R503). -/
def Timer.tick (t : Timer) : Timer × Bool :=
  if !t.bit 7 then (t, false)
  else if t.bit 6 then ({ t with counter := 0, control := putBit t.control 6 false }, false)
  else if t.bit 8 && t.period == 0 && t.counter == 0 then (t, false)
  else if t.counter = t.period then Timer.event { t with counter := 0 }
  else ({ t with counter := t.counter + 1 }, false)

/-- One H1 cycle (65 R501, R503, R504): a pulse ends, and the internal clock at half the rate ticks. -/
def Timer.h1 (t : Timer) : Timer × Bool :=
  if !t.bit 7 then (t, false)
  else
    let ended := !t.bit 8 && t.bit 11 && !(t.period == 0 && t.counter == 0)
    let t := if ended then { t with control := putBit t.control 11 false } else t
    if t.bit 8 && t.period == 0 && t.counter == 0 && !t.bit 6 then Timer.event { t with half := !t.half }
    else if t.bit 9 then
      let t := { t with half := !t.half }
      if t.half then t.tick else (t, false)
    else (t, false)

/-- A level change on TCLK (65 R505): it clocks the timer when the clock is external and TCLK is not an output. -/
def Timer.pinEdge (t : Timer) (old new : Bool) : Timer × Bool :=
  let rising := if t.bit 10 then old && !new else !old && new
  if !t.bit 9 && !(!t.bit 0 && t.bit 1) && rising then t.tick else (t, false)

/-- A write of the control register (65 R501): DATIN and TSTAT are read-only, and a rising DATOUT clocks the timer when
it is the clock (R505). -/
def Timer.writeControl (t : Timer) (v : Word) : Timer × Bool :=
  let rising := !t.bit 2 && v.getLsbD 2
  let t := { t with control := merge 0x7C7 v (t.control &&& 0x800) }
  if !t.bit 9 && !t.bit 0 && t.bit 1 && rising then t.tick else (t, false)

/-- A read of a timer register: offsets 0, 4 and 8 (65 R500). -/
def Timer.read (t : Timer) (pin : Bool) (off : Nat) : Option Word :=
  match off with
  | 0 => some (putBit t.control 3 (t.datin pin))
  | 4 => some t.counter
  | 8 => some t.period
  | _ => none

/-- A write of a timer register. -/
def Timer.write (t : Timer) (off : Nat) (v : Word) : Option (Timer × Bool) :=
  match off with
  | 0 => some (t.writeControl v)
  | 4 => some ({ t with counter := v }, false)
  | 8 => some ({ t with period := v }, false)
  | _ => none

/-- The devices with timer `n` replaced and its interrupt pulse raised if asked. -/
def Devices.setTimer (d : Devices) (n : Fin 2) (x : Timer × Bool) : Devices :=
  { d with timers := d.timers.set n x.1
           pulses := if x.2 then putBit d.pulses (timerFlag n) true else d.pulses }

/-- One H1 cycle of both timers. -/
def Devices.timersH1 (d : Devices) : Devices :=
  let d := d.setTimer 0 d.timers[0].h1
  d.setTimer 1 d.timers[1].h1

end Sys2Proof.Machine
end

