-- ==== Sys2Proof/Machine/Uart.lean ====
section
/-! DEFINITION. The UART (spec 66 R620–R627) and the register of its PLL (R630). -/

namespace Sys2Proof.Machine

/-- The FIFO depth: at least 14 and at most 31 (66 R622); which is the implementation's. -/
def uartDepth : Nat := 14 + Config.uartDepthChoice % 18

/-- Whether a FIFO with this many characters takes one more. -/
def uartRoom (n : Nat) : Bool := if n < 14 then true else decide (n < uartDepth)

/-- Divisor latches addressed (66 R623). -/
def Uart.dlab (u : Uart) : Bool := u.lcr.getLsbD 7
/-- Loop-back mode (66 R624). -/
def Uart.loop (u : Uart) : Bool := u.mcr.getLsbD 4

/-- Characters move: the divisor is not 0 and the baud counter has been started (66 R626). -/
def Uart.runs (u : Uart) : Bool := u.counting && u.divisor != 0

/-- The receiver trigger level (66 R622). -/
def Uart.triggerLevel (u : Uart) : Nat :=
  match u.trigger.toNat with | 0 => 1 | 1 => 4 | 2 => 8 | _ => 14

/-- IIR bits 3–0 (66 R621): the highest-priority pending interrupt, or 1. R621 names no enable bit for the timeout: the one of
received data, bit 0, enables it (DESIGN CHOICE, log 34). R621 gives received data (010) and the timeout (110) one priority, the
second, and does not say which is shown where both are pending: 010 is (DESIGN CHOICE, log 34). -/
def Uart.identify (u : Uart) : BitVec 4 :=
  if u.ier.getLsbD 2 && u.line != 0 then 0b0110
  else if u.ier.getLsbD 0 && decide (u.triggerLevel ≤ u.rx.length) then 0b0100
  else if u.ier.getLsbD 0 && u.timeout then 0b1100
  else if u.ier.getLsbD 1 && u.thre then 0b0010
  else if u.ier.getLsbD 3 && u.delta != 0 then 0b0000
  else 0b0001

/-- The interrupt request to the commutator (66 R620, R621). -/
def Uart.request (u : Uart) : Bool := !u.identify.getLsbD 0

/-- The modem lines as MSR 7–4 shows them (66 R624, R625): the complements of the pins, in loop-back OUT2, OUT1, DTR, RTS. -/
def Uart.lines (u : Uart) : BitVec 4 :=
  if u.loop then bitOf u.mcr 3 ++ bitOf u.mcr 2 ++ bitOf u.mcr 0 ++ bitOf u.mcr 1 else u.modem

/-- The UART after a change of its modem lines from `old` (66 R625): the change bits; TERI marks RI going from low to high,
its complement from 1 to 0. A fall of RI sets nothing and so raises no request, though R621 lists a change of RI as a source
of the modem-status interrupt: R625 is followed (DESIGN CHOICE, log 34). -/
def Uart.changedFrom (u : Uart) (old : BitVec 4) : Uart :=
  { u with delta := u.delta ||| ((old ^^^ u.lines) &&& 0b1011#4) ||| (old &&& ~~~u.lines &&& 0b0100#4) }

/-- LSR (66 R625). -/
def Uart.lsr (u : Uart) : Byte :=
  let idle := u.tx.isEmpty && u.shift.isNone
  BitVec.ofBool u.fifoError ++ BitVec.ofBool idle ++ BitVec.ofBool u.tx.isEmpty ++ u.line
    ++ BitVec.ofBool (!u.rx.isEmpty)

/-- MSR (66 R625). -/
def Uart.msr (u : Uart) : Byte := u.lines ++ u.delta

/-- The error bits of LSR that a character brings when it comes to the top of the FIFO: FE and PE (66 R625). -/
def RxChar.topErrors (c : RxChar) : BitVec 4 := 0#1 ++ BitVec.ofBool c.fe ++ BitVec.ofBool c.pe ++ 0#1

/-- The error bits of LSR that a character sets when it is received, whether the FIFO takes it or not: BI (66 R625). -/
def RxChar.lineErrors (c : RxChar) : BitVec 4 := BitVec.ofBool c.bi ++ 0#3

/-- A character has a parity error, a framing error or is a break (66 R625). -/
def RxChar.bad (c : RxChar) : Bool := c.pe || c.fe || c.bi

/-- Some character of a receiver FIFO has an error (66 R625). -/
def anyError (l : List RxChar) : Bool := l.any RxChar.bad

/-- FE and PE of the character at the top of a receiver FIFO. -/
def topErrors (l : List RxChar) : BitVec 4 := (l.head?.map RxChar.topErrors).getD 0

/-- The receiver FIFO with its oldest character read (66 R621, R625). -/
def Uart.popRx (u : Uart) : Uart :=
  let rest := u.rx.tail
  { u with rx := rest, timeout := false, fifoError := u.fifoError && anyError rest
           line := u.line ||| topErrors rest }

/-- The data bits of a character of the length in LCR 1–0: 5 to 8 (66 R623). -/
def Uart.lengthMask (u : Uart) : Byte := 0xFF >>> (3 - bits u.lcr 0 2)

/-- A character as the receiver delivers it (66 R623, R625): bits beyond its length are 0, parity counts only where LCR
enables it, a break is a zero character. -/
def Uart.received (u : Uart) (c : RxChar) : RxChar :=
  { c with data := if c.bi then 0 else c.data &&& u.lengthMask, pe := c.pe && u.lcr.getLsbD 3 }

/-- A character reaches the receiver (66 R625): into the FIFO, or an overrun. A break sets BI at once, in a full FIFO too; FE and
PE are those of the character at the top. -/
def Uart.accept (u : Uart) (c : RxChar) : Uart :=
  let c := u.received c
  if !uartRoom u.rx.length then { u with line := u.line ||| c.lineErrors ||| 1 }
  else { u with rx := u.rx ++ [c]
                fifoError := u.fifoError || c.bad
                line := u.line ||| c.lineErrors ||| (if u.rx.isEmpty then c.topErrors else 0) }

/-- A character on the serial input; nothing moves while the baud counter does not run (66 R626), and loop-back disconnects the
line. -/
def Uart.receive (u : Uart) (c : RxChar) : Uart :=
  if !u.runs || u.loop then u else u.accept c

/-- The shift register has sent its character and takes the next one (66 R624, R625). -/
def Uart.shiftOut (u : Uart) : Uart :=
  if !u.runs then u
  else
    let u := match u.shift with
      | some b => if u.loop then u.accept ⟨b, false, false, false⟩ else u
      | none => u
    match u.tx with
    | [] => { u with shift := none }
    | b :: t => { u with shift := some b, tx := t, thre := u.thre || t.isEmpty }

/-- The character that leaves on the serial output when the shift register has sent it, of the length in LCR 1–0 (66 R623):
none in loop-back, which holds the output at 1, and none while BREAK forces it to 0. -/
def Uart.shifted (u : Uart) : Option Byte :=
  if !u.runs || u.loop || u.lcr.getLsbD 6 then none else u.shift.map (· &&& u.lengthMask)

/-- The levels of the pins RTS and DTR, the complements of MCR bits 1 and 0, in loop-back too (66 R624; log 34). -/
def Uart.rts (u : Uart) : Bool := !u.mcr.getLsbD 1
def Uart.dtr (u : Uart) : Bool := !u.mcr.getLsbD 0

/-- The serial output where it is held at a level: 1 in loop-back (66 R624), 0 under BREAK (R623), 1 while no character is
being sent. With LOOP and BREAK both 1, for which the two rules say opposite levels, loop-back wins (DESIGN CHOICE, log 34). -/
def Uart.heldOutput (u : Uart) : Option Bool :=
  if u.loop then some true else if u.lcr.getLsbD 6 then some false else if u.shift.isNone then some true else none

/-- New levels on the modem pins (66 R624, R625); in loop-back they are disconnected. -/
def Uart.setModem (u : Uart) (v : BitVec 4) : Uart := { u with modem := v }.changedFrom u.lines

/-- A read of a UART register (66 R620): the value and the UART after it; `none` where no register is. `free` supplies
what the source leaves open: an empty FIFO, a write-only register, the unreadable fields of Debug 2. -/
def Uart.read (u : Uart) (off : Nat) (free : Word) : Option (Word × Uart) :=
  match off with
  | 0 =>
      if u.dlab then some ((u.divisor.extractLsb' 0 8).setWidth 32, u)
      else match u.rx with
        | [] => some (free &&& 0xFF, { u with timeout := false })
        | c :: _ => some (c.data.setWidth 32, u.popRx)
  | 1 => if u.dlab then some ((u.divisor.extractLsb' 8 8).setWidth 32, u) else some (u.ier.setWidth 32, u)
  | 2 => some (0xC0 ||| u.identify.setWidth 32, { u with thre := false })
  | 3 => some (u.lcr.setWidth 32, u)
  | 4 => some (free &&& 0xFF, u)
  | 5 => some (u.lsr.setWidth 32, { u with line := 0, fifoError := false })
  | 6 => some (u.msr.setWidth 32, { u with delta := 0 })
  | 8 => some (u.msr ++ u.lcr ++ u.identify ++ u.ier ++ u.lsr, u)
  | 0x12 =>
      let v := merge 0x00FE0F07 free 0
      some (putField (putField v 12 5 (BitVec.ofNat 5 u.rx.length)) 3 5 (BitVec.ofNat 5 u.tx.length), u)
  | _ => none

/-- The low byte of the divisor written, which starts the baud counter (66 R626); with a divisor of 0 it does not run. -/
def Uart.setLow (u : Uart) (v : Byte) : Uart :=
  let divisor := u.divisor.extractLsb' 8 8 ++ v
  { u with divisor := divisor, counting := divisor != 0 }

/-- A write of a UART register (66 R620–R624); `none` where no register can be written. -/
def Uart.write (u : Uart) (off : Nat) (v : Word) : Option Uart :=
  match off with
  | 0 =>
      if u.dlab then some (u.setLow (v.extractLsb' 0 8))
      else some { u with tx := if uartRoom u.tx.length then u.tx ++ [v.extractLsb' 0 8] else u.tx, thre := false }
  | 1 =>
      if u.dlab then some { u with divisor := v.extractLsb' 0 8 ++ u.divisor.extractLsb' 0 8 }
      else some { u with ier := v.extractLsb' 0 4 }
  | 2 =>
      some { u with trigger := v.extractLsb' 6 2
                    tx := if v.getLsbD 2 then [] else u.tx
                    rx := if v.getLsbD 1 then [] else u.rx
                    fifoError := u.fifoError && !v.getLsbD 1
                    thre := u.thre || (v.getLsbD 2 && !u.tx.isEmpty), timeout := u.timeout && !v.getLsbD 1 }
  | 3 => some { u with lcr := v.extractLsb' 0 8 }
  | 4 => some ({ u with mcr := v.extractLsb' 0 5 }.changedFrom u.lines)
  | 5 | 6 | 8 | 0x12 => some u
  | _ => none

/-- A write of RUARTPLL (66 R630): MS = 0 is stored as 1. -/
def pllWrite (v : Word) : BitVec 14 :=
  if v.extractLsb' 0 6 = 0 then v.extractLsb' 6 8 ++ 1#6 else v.extractLsb' 0 14

end Sys2Proof.Machine
end

