-- ==== Sys2Proof/Machine/Usb.lean ====
section
/-! DEFINITION. The USB 2.0 device (spec 66 R585–R595): registers, interrupt scheme, and the transactions of its
endpoints, for which the controller makes one access to its RAM in a move. What the host sends is an input. -/

namespace Sys2Proof.Machine

/-- The bit of INT_MSK (group A) that masks INT_SRC bit 20 + `k` (66 R589, R590): the two registers list ATTACH and
DEATTACH in opposite order. -/
def usbMaskBit (k : Nat) : Nat := if k = 5 then 6 else if k = 6 then 5 else k

/-- Whether level-1 event `k` requests an interrupt, through mask group A or B. -/
def Usb.eventRequest (u : Usb) (k : Nat) : Bool :=
  u.src.getLsbD (20 + k) && (u.mask.getLsbD (usbMaskBit k) || u.mask.getLsbD (16 + usbMaskBit k))

/-- Whether an endpoint has an enabled event: flags 10–0 against masks 30–20 and 19–11 (66 R593). -/
def UsbEndpoint.request (e : UsbEndpoint) : Bool :=
  (e.int.extractLsb' 0 11 &&& (e.int.extractLsb' 20 11 ||| (e.int.extractLsb' 11 9).setWidth 11)) != 0

/-- The interrupt request to the commutator (66 R585): an enabled level-1 event, or a pending endpoint with an enabled
event. -/
def Usb.request (u : Usb) : Bool :=
  (List.range 11).any u.eventRequest
    || (List.range 16).any fun n => u.src.getLsbD n && (u.endpoints[n]?.map UsbEndpoint.request).getD false

/-- A read of a USB register (66 R586–R594): INT_SRC is cleared by it. `free` supplies the write-only bits of CSR. -/
def Usb.read (u : Usb) (off : Nat) (free : Word) : Option (Word × Usb) :=
  if off = 0 then some (merge 0x5000 free u.csr, u)
  else if off = 4 then some (u.fa.setWidth 32, u)
  else if off = 8 then some (u.mask, u)
  else if off = 0xC then some (u.src, { u with src := 0, received := 0 })
  else if off = 0x10 then some (u.frame, u)
  else if off = 0x13D then some (u.wait, u)
  else if 0x40 ≤ off ∧ off < 0x140 then
    match u.endpoints[(off - 0x40) / 16]?, (off - 0x40) % 16 with
    | some e, 0 => some (e.csr, u)
    | some e, 4 => some (e.int, u)
    | some e, 8 => some (e.oba, u)
    | some e, 12 => some (e.iba, u)
    | _, _ => none
  else none

/-- Endpoint `n` replaced. -/
def Usb.setEndpoint (u : Usb) (n : Nat) (e : UsbEndpoint) : Usb :=
  if h : n < 16 then { u with endpoints := u.endpoints.set n e } else u

/-- CE: the core is enabled (66 R587). -/
def Usb.enabled (u : Usb) : Bool := u.csr.getLsbD 7

/-- CSR with FSHS 0 where SM forbids high-speed mode (66 R587). -/
def usbSpeed (csr : Word) : Word := if csr.getLsbD 15 then putBit csr 1 false else csr

/-- A write of CSR (66 R587): PHYSUSP and RESUME command the PHY, which a line that is not IDLE and bit 0 of the wait register
keep out of SUSPEND; the status bits are read-only. Where both are written as 1, PHYSUSP wins (DESIGN CHOICE, log 37). -/
def Usb.writeCsr (u : Usb) (v : Word) : Usb :=
  { u with csr := usbSpeed (merge 0x8C80 v u.csr)
           suspended := if v.getLsbD 14 then u.csr.getLsbD 6 && !u.wait.getLsbD 0
             else if v.getLsbD 12 then false else u.suspended }

/-- A write of a USB register (66 R586–R594). -/
def Usb.write (u : Usb) (off : Nat) (v : Word) : Option Usb :=
  if off = 0 then some (u.writeCsr v)
  else if off = 4 then some { u with fa := v.extractLsb' 0 8 }
  else if off = 8 then some { u with mask := v &&& 0x07FF07FF }
  else if off = 0xC ∨ off = 0x10 then some u
  else if off = 0x13D then some { u with wait := v, suspended := u.suspended && !v.getLsbD 0 }
  else if 0x40 ≤ off ∧ off < 0x140 then
    let n := (off - 0x40) / 16
    match u.endpoints[n]?, (off - 0x40) % 16 with
    | some e, 0 => some (u.setEndpoint n { e with csr := v &&& 0x0FFF3FFF })
    | some e, 4 => some (u.setEndpoint n { e with int := merge 0x7FFFF800 v e.int })
    | some e, 8 => some (u.setEndpoint n { e with oba := v })
    | some e, 12 => some (u.setEndpoint n { e with iba := v })
    | _, _ => none
  else none

/-- Line status bits of CSR (6, 5, 2, 1, 0) and the frame register; a line that is not idle ends SUSPEND (66 R587, R591). ESUSP,
bit 0, is what the PHY side gives: whether a SUSPEND that PHYSUSP commands shows there is not stated, and by itself it does not
(DESIGN CHOICE, log 37). -/
def Usb.line (u : Usb) (status frame : Word) : Usb :=
  { u with csr := usbSpeed (merge 0x67 status u.csr), frame := frame &&& 0xF7FF0FFF
           suspended := u.suspended && status.getLsbD 6 }

/-- Level-1 events, which an enabled core records (66 R587, R590). -/
def Usb.record (u : Usb) (src : Word) : Usb := if u.enabled then { u with src := u.src ||| (src &&& 0x7FF00000) } else u

/-- Level-1 events from the line: all but EPERR, which the device finds itself. -/
def Usb.event (u : Usb) (src : Word) : Usb := u.record (putBit src 22 false)

/-! ### Endpoints (66 R585, R592, R594) -/

/-- The endpoint takes transactions of a kind, by EPTYPE: a CONTROL endpoint all, an IN and an OUT endpoint those of their
direction; the code 11, which is not listed, none (DESIGN CHOICE, log 37). -/
def UsbEndpoint.takes (e : UsbEndpoint) (k : UsbToken) : Bool :=
  match bits e.csr 26 2, k with
  | 0, _ | 1, .input | 2, .output => true
  | _, _ => false

/-- The register set that answers an endpoint number, by its EPNO and EPTYPE: the first of several (DESIGN CHOICE, log 37). -/
def Usb.find (u : Usb) (epno : BitVec 4) (k : UsbToken) : Option (Fin 16) :=
  ([0, 1, 2, 3, 4, 5, 6, 7, 8, 9, 10, 11, 12, 13, 14, 15] : List (Fin 16)).find? fun n =>
    (u.endpoints[n]).takes k && (u.endpoints[n]).csr.extractLsb' 18 4 == epno

/-- The buffer of an endpoint for a direction: EPn_IBA for packets to the host, EPn_OBA for those from it. -/
def UsbEndpoint.buffer (e : UsbEndpoint) (k : UsbToken) : Word := if k = .input then e.iba else e.oba

/-- The word of the USB RAM at which a buffer starts: BUFPT, whose unit is open. The bits of BUFPT beyond the 16K words of the RAM
are dropped, bit 16 where it counts bytes, bits 16–14 where it counts words: 66 R594 does not say what such a pointer does
(DESIGN CHOICE, log 37). A packet that runs past the end of the RAM goes on at its start, and one that starts inside a word moves
that word whole (DESIGN CHOICE, log 37). -/
def bufferStart (b : Word) : BitVec 14 := b.extractLsb' (if Config.usbPointerBytes then 2 else 0) 14

/-- At most so many bytes of a packet that stands `place` words behind the start of its buffer are moved: MAXPL, and what BUFSZ
leaves there. -/
def UsbEndpoint.limit (e : UsbEndpoint) (k : UsbToken) (place : Nat) : Nat :=
  min (bits e.csr 0 11) (bits (e.buffer k) 17 15 - 4 * place)

/-- The local-bus address of a word of the USB RAM. -/
def usbCell (i : BitVec 14) : Word := 0x00610000 + i.setWidth 32

/-! ### Transactions (66 R592, R593; log 37) -/

/-- A transaction that moved a packet without an error (66 R593; log 37): TD, RD or RCNTL, and none of MAXPL, PIDSEQ, CRC16,
TIMEOUT. -/
def usbSuccess (flags : BitVec 11) : Bool := flags &&& 0x604 != 0 && flags &&& 0x063 == 0

/-- Endpoint events (66 R590, R592, R593): the flags, the endpoint's bit of INT_SRC, a packet counted with RD, and NSETUP where
ADV17 asks for it after a successful transaction. ADV17 stays set, so that every later success sets NSETUP again (DESIGN CHOICE,
log 37). -/
def Usb.endpointEvent (u : Usb) (n : Fin 16) (flags : BitVec 11) : Usb :=
  if flags = 0 then u
  else
    let e := u.endpoints[n]
    let csr := if e.csr.getLsbD 16 && usbSuccess flags then putBit e.csr 17 true else e.csr
    let u := u.setEndpoint n.val { e with csr := csr, int := e.int ||| flags.setWidth 32 }
    { u with src := putBit u.src n.val true, received := u.received + (flags.getLsbD 9).toNat }

/-- The flags that the line gives a transaction: all but those of a packet that has moved, TD, RD and RCNTL, and MAXPL. -/
def UsbTransaction.line (x : UsbTransaction) : BitVec 11 := x.found &&& ~~~0x644#11

/-- The endpoint refuses the transaction: HALT is 10 or 11, a SETUP with NSETUP = 1, or an IN with NIN = 1 and an empty buffer
(66 R592). -/
def UsbEndpoint.refuses (e : UsbEndpoint) (x : UsbTransaction) : Bool :=
  decide (2 ≤ bits e.csr 22 2) || (x.token == .setup && e.csr.getLsbD 17)
    || (x.token == .input && e.csr.getLsbD 13 && x.bytes == 0)

/-- The flags of a packet from the host: MAXPL where it is larger than that, and RD, or RCNTL for a SETUP, where no error is
found in it (66 R593). -/
def UsbEndpoint.received (e : UsbEndpoint) (x : UsbTransaction) : BitVec 11 :=
  let f := x.line ||| (if bits e.csr 0 11 < x.bytes then 0x040 else 0)
  if f &&& 0x063 == 0 then f ||| (if x.token = .setup then 0x004 else 0x200) else f

/-- The transfer of a transaction that the endpoint does not refuse: an IN sends what the buffer holds, within the limit; of a
packet from the host the words within the limit are stored, one with an error too (DESIGN CHOICE, log 37). Where in a buffer that is
larger than a packet the next one stands, at BUFPT again or behind the one before, is not stated (66 R592, R594): the transaction says
it (DESIGN CHOICE, log 37). -/
def UsbEndpoint.transfer (e : UsbEndpoint) (n : Fin 16) (x : UsbTransaction) : UsbTransfer :=
  let bytes := min x.bytes (e.limit x.token x.place)
  let words := (bytes + 3) / 4
  let start := bufferStart (e.buffer x.token) + BitVec.ofNat 14 x.place
  if x.token = .input then .send n x.endpoint bytes start words [] (x.line ||| 0x400)
  else .store n start (x.data.take words) (e.received x)

/-- A transaction begins (66 R587, R588, R590, R592): with the core enabled, for its own function address, and when the one
before is over. Where no endpoint takes it EPERR is recorded; HALT 01 ignores it. What a write of EPn_IBA, EPn_OBA or EPn_CSR does
to a transaction that is in progress is not stated (66 R592, R594): the buffer's start and size, MAXPL, EPNO, EPTYPE and HALT are
those at its beginning, while ADV17, NSETUP and the masks act at its end as they are then (DESIGN CHOICE, log 37). A transaction is
heard though the PHY is in SUSPEND: 66 R587 does not say whether (DESIGN CHOICE, log 37). -/
def Usb.begin (u : Usb) (x : UsbTransaction) : Usb :=
  if !u.enabled || x.address != u.fa || u.transfer.isSome then u
  else match u.find x.endpoint x.token with
    | none => u.record 0x00400000
    | some n =>
        let e := u.endpoints[n]
        if bits e.csr 22 2 = 1 then u
        else if e.refuses x then u.endpointEvent n x.line
        else { u with transfer := some (e.transfer n x) }

/-- The controller's next access to its RAM for the transaction in progress; when none is left the transaction ends, and its
flags are set. Where the core has been disabled it is given up (DESIGN CHOICE, log 37). -/
def Usb.access (u : Usb) (m : List Host.Cell) : Usb × List Host.Cell :=
  if !u.enabled then ({ u with transfer := none }, m)
  else match u.transfer with
    | none => (u, m)
    | some (.send n _ _ _ 0 _ flags) => ({ u with transfer := none }.endpointEvent n flags, m)
    | some (.send n epno bytes next (left + 1) data flags) =>
        ({ u with transfer := some (.send n epno bytes (next + 1) left (data ++ [Memory.readWord m (usbCell next)]) flags) }, m)
    | some (.store n _ [] flags) => ({ u with transfer := none }.endpointEvent n flags, m)
    | some (.store n next (v :: t) flags) =>
        ({ u with transfer := some (.store n (next + 1) t flags) }, Memory.writeWord m (usbCell next) v)

/-- The data packet seen on the line when a transfer to the host ends. -/
def Usb.shown (u : Usb) : Option Output :=
  match u.enabled, u.transfer with
  | true, some (.send _ epno bytes _ 0 data _) => some (.usbPacket epno bytes data)
  | _, _ => none

end Sys2Proof.Machine
end

