-- ==== Sys2Proof/Machine/Bus.lean ====
section
/-! DEFINITION. The address map and the two accesses to it, one word read and one word write (spec 20 R100–R124,
65, 66). An access changes only the devices, the memory, the draw counter, and what the external buses show. -/

namespace Sys2Proof.Machine

/-! ### The result of a computation that may wait or stop -/

/-- What a computation over the state can do: finish with a value, wait for an access to complete, or stop. -/
inductive Res (α : Type) where
  | ok (a : α) (s : State)
  | wait (w : Wait)
  | fault (f : Fault)
  | refused (r : Refusal)
deriving Repr

/-- Sequencing: what follows a finished computation; a wait or a stop ends it. -/
def Res.bind {α β : Type} (x : Res α) (k : α → State → Res β) : Res β :=
  match x with
  | .ok a s => k a s
  | .wait w => .wait w
  | .fault f => .fault f
  | .refused r => .refused r

/-! ### The address map (20 R104–R106) -/

/-- What stands at an address. -/
inductive Region where
  /-- On-chip RAM. -/
  | ram
  /-- The boot ROM. -/
  | rom (i : BitVec 12)
  /-- The global bus. -/
  | global
  /-- A bus control register: the local one if true. -/
  | control (isLocal : Bool)
  | timer (n : Fin 2) (off : Nat)
  | port (k : Fin 6) (off : Nat)
  | dma (c : Fin 6) (off : Nat)
  /-- RS (false) and RC (true) of the commutator. -/
  | commutator (rc : Bool)
  /-- A register of a switched device. -/
  | device (d : Device) (off : Nat)
  /-- A word of the buffer RAM of a switched device. -/
  | deviceRam (d : Device)
  /-- RUARTPLL. -/
  | pll
  /-- A local-bus address below the internal ones (ROMEN = 0), reserved on this chip, where nothing is attached (20 R104). -/
  | localBus
  /-- A reserved address of the local bus (20 R104, R106). -/
  | localVoid
  /-- A reserved address inside the core. -/
  | reserved
deriving DecidableEq, Repr

/-- The sixteen-word blocks of the peripheral bus (20 R105). -/
def peripheralRegion (n : Nat) : Region :=
  let off := n % 16
  match n / 16 with
  | 0 => if off = 0 then .control false else if off = 4 then .control true else .reserved
  | 1 => .reserved
  | 2 => .timer 0 off
  | 3 => .timer 1 off
  | b => if b < 10 then .port (Fin.ofNat 6 (b - 4)) off else .dma (Fin.ofNat 6 (b - 10)) off

/-- The local bus, 0030 0000h–7FFF FFFFh (20 R106). -/
def localRegion (n : Nat) : Region :=
  if n = 0x300000 then .commutator false
  else if n = 0x300001 then .commutator true
  else if n < 0x400000 then .localVoid
  else if n ≤ 0x400012 then .device .uart (n - 0x400000)
  else if n = 0x4001FF then .pll
  else if n < 0x500000 then .localVoid
  else if n ≤ 0x50000D then .device .mil (n - 0x500000)
  else if n < 0x501000 then .localVoid
  else if n ≤ 0x501BFF then .deviceRam .mil
  else if n < 0x600000 then .localVoid
  else if n ≤ 0x60013D then .device .usb (n - 0x600000)
  else if n < 0x610000 then .localVoid
  else if n ≤ 0x613FFF then .deviceRam .usb
  else if n < 0x700000 then .localVoid
  else if n ≤ 0x700067 then .device .ethernet (n - 0x700000)
  else if n < 0x710000 then .localVoid
  else if n ≤ 0x713FFF then .deviceRam .ethernet
  else .localVoid

/-- The address map of a core (20 R104). -/
def region (romen : Bool) (a : Word) : Region :=
  let n := a.toNat
  if 0x80000000 ≤ n then .global
  else if 0x2FF800 ≤ n ∧ n ≤ 0x2FFFFF then .ram
  else if n < 0x100000 then
    if romen then (if n < 0x1000 then .rom (a.extractLsb' 0 12) else .reserved) else .localBus
  else if n < 0x100100 then peripheralRegion (n - 0x100000)
  else if n < 0x300000 then .reserved
  else localRegion n

/-- An external address, one of the global or the local bus and not of the on-chip memory or the peripheral bus, takes a
cycle on its bus and drives its lock signal (20 R104, R122; 44 R425). A reserved address of the local bus selects no strobe:
reserved accesses do not activate LSTRB# (20 R121). Two points are open (DESIGN CHOICE, log 10): an address inside a device's
range selects its strobe though no register stands behind it, and so does one below 0010 0000h with ROMEN = 0, which reaches
the local bus though nothing is attached there. -/
def Region.external : Region → Bool
  | .global | .localBus | .commutator _ | .device _ _ | .deviceRam _ | .pll => true
  | _ => false

/-! ### Readiness of the external buses (20 R121–R124) -/

/-- Whether an address offset on a bus is covered by STRB1: beyond the first 2^(v+1) words for STRB ACTIVE v (20 R121). -/
def strobe1 (control : Word) (off : BitVec 31) (draw : Nat) : Bool :=
  let v := bits control 24 5
  if 15 ≤ v ∧ v ≤ 30 then decide (2 ^ (v + 1) ≤ off.toNat) else Config.reservedStrobe draw

/-- Whether a strobe's SWW field makes the access wait for the external ready: codes 00 and 11 (20 R123). -/
def waitsExternal (control : Word) (strb1 : Bool) : Bool :=
  let v := bits control (if strb1 then 6 else 4) 2
  v == 0 || v == 3

/-- The board has memory at a global address (00 R12, 20 R104). -/
def State.populated (s : State) (a : Word) : Bool := s.board.any fun r => decide (r.1 ≤ a) && decide (a ≤ r.2)

/-- Whether an access on the global bus completes: the enables are active, and the pin is ready where SWW asks for it; where
the board has nothing, nothing drives it. -/
def globalReady (s : State) (a : Word) (write : Bool) : Bool :=
  let s1 := strobe1 s.dev.globalControl (a.extractLsb' 0 31) s.draws
  let enabled := s.pins.ae && (if s1 then s.pins.ce1 else s.pins.ce0) && (!write || s.pins.de)
  enabled && (!waitsExternal s.dev.globalControl s1
    || (s.populated a && (if s1 then s.pins.ready1 else s.pins.ready0)))

/-- Whether an access to the local bus that no device answers waits for ever. -/
def localWaits (s : State) (a : Word) : Bool :=
  waitsExternal s.dev.localControl (strobe1 s.dev.localControl (a.extractLsb' 0 31) s.draws)

/-- The field of RC that connects a device, as its low bit (66 R561). -/
def deviceField : Device → Nat
  | .uart => 0 | .ethernet => 2 | .usb => 4 | .mil => 6

/-- The commutator connects a device to the core that drives its local bus with STRB0 (20 R124, 66 R561). -/
def connectedTo (rc : BitVec 8) (core2 : Bool) (d : Device) : Bool :=
  bits rc (deviceField d) 2 == if core2 then 2 else 1

/-- A local address is covered by LSTRB0, which alone strobes the SoC peripherals (20 R124). -/
def strobe0 (s : State) (a : Word) : Bool := !strobe1 s.dev.localControl (a.extractLsb' 0 31) s.draws

/-- Whether a device answers an access of this core at an address. -/
def answers (s : State) (d : Device) (a : Word) : Bool := connectedTo s.dev.rc s.pins.core2 d && strobe0 s a

/-- The bus control register with the live enable pins in bits 3–0 (20 R120). The local bus stays inside the package and
its pins read enabled. -/
def busControl (s : State) (isLocal : Bool) : Word :=
  if isLocal then s.dev.localControl &&& 0x3FFFFFF0
  else putBit (putBit (putBit (putBit (s.dev.globalControl &&& 0x3FFFFFF0) 0 (!s.pins.ce0)) 1 (!s.pins.ce1)) 2
    (!s.pins.de)) 3 (!s.pins.ae)

/-! ### Device registers -/

/-- A read of a device register: the value and the devices after it, `none` where the device has no register. -/
def Devices.readDevice (d : Devices) (k : Device) (off : Nat) (draw : Nat) (a : Word) : Option (Word × Devices) :=
  let free := Config.freeRead draw a
  match k with
  | .uart => (d.uart.read off free).map fun x => (x.1, { d with uart := x.2 })
  | .usb => (d.usb.read off free).map fun x => (x.1, { d with usb := x.2 })
  | .mil => (d.mil.read off (free.extractLsb' 0 16)).map fun x => (x.1.setWidth 32, { d with mil := x.2 })
  | .ethernet => (d.ethernet.read off (Config.ethernetUpper draw a) (Config.ethernetReadOnly draw a)).map fun x => (x, d)

/-- The jobs of the 1553 device when one of its registers is written: a reset ends both (66 R602), and an operation started
takes the place of the command of the controller (R606; log 38). -/
def Devices.milWritten (d : Devices) (off : Nat) (v : BitVec 16) (m : Mil) : Devices :=
  { d with
    mil := m
    milRun := if (off = 0 ∧ v = 0) ∨ (4 ≤ off ∧ off ≤ 7 ∧ d.mil.controllerOn = true) then none else d.milRun
    milHeard := if off = 0 ∧ v = 0 then none else d.milHeard }

/-- A write of a device register, `none` where the device has no register. -/
def Devices.writeDevice (d : Devices) (k : Device) (off : Nat) (v : Word) : Option Devices :=
  match k with
  | .uart => (d.uart.write off v).map fun x => { d with uart := x }
  | .usb => (d.usb.write off v).map fun x => { d with usb := x }
  | .mil => (d.mil.write off (v.extractLsb' 0 16)).map (d.milWritten off (v.extractLsb' 0 16))
  | .ethernet => (d.ethernet.write off v).map fun x => { d with ethernet := x }

/-! ### The external buses as the outside sees them (20 R121, R122) -/

/-- An address takes a cycle on an external bus. -/
def State.onBus (s : State) (a : Word) : Bool := (region s.pins.romen a).external

/-- A bus by its side. -/
def State.bus (s : State) (isLocal : Bool) : BusState := if isLocal then s.localBus else s.globalBus

/-- The control register of a bus. -/
def State.control (s : State) (isLocal : Bool) : Word := if isLocal then s.dev.localControl else s.dev.globalControl

/-- An access crosses a page of its strobe (20 R121): the address bits above the page size differ from those of the last
access under that strobe; the first access does. A reserved size has the smallest page (DESIGN CHOICE, log 10). -/
def crossesPage (control : Word) (strb1 : Bool) (last : Option (BitVec 31)) (a : BitVec 31) : Bool :=
  let p := bits control (if strb1 then 19 else 14) 5
  let p := if 7 ≤ p ∧ p ≤ 30 then p else 7
  match last with
  | none => true
  | some b => (a >>> (p + 1)) != (b >>> (p + 1))

/-- The cycle an access to an external address makes; `w` is the word of a write. -/
def State.busCycle (s : State) (k : Access) (a : Word) (w : Option Word) : BusCycle :=
  let isLocal := !a.msb
  let at31 := a.extractLsb' 0 31
  let s1 := strobe1 (s.control isLocal) at31 s.draws
  { isLocal := isLocal, strobe1 := s1, access := k, address := at31, data := w
    page := crossesPage (s.control isLocal) s1 (if s1 then (s.bus isLocal).page1 else (s.bus isLocal).page0) at31 }

/-- A bus after a cycle: it keeps the address, and the page logic of the strobe its page. -/
def BusState.after (b : BusState) (c : BusCycle) : BusState :=
  if c.strobe1 then { b with address := some c.address, page1 := some c.address }
  else { b with address := some c.address, page0 := some c.address }

/-- The state after a completed cycle. -/
def State.cycled (s : State) (c : BusCycle) : State :=
  if c.isLocal then { s with localBus := s.localBus.after c, outputs := s.outputs ++ [.cycle c] }
  else { s with globalBus := s.globalBus.after c, outputs := s.outputs ++ [.cycle c] }

/-- The state `t` that an access on `s` leaves, with its completed cycle where its address is external. -/
def State.shows (s : State) (k : Access) (a : Word) (w : Option Word) (t : State) : State :=
  if s.onBus a then t.cycled (s.busCycle k a w) else t

/-- The signals of one strobe set: STRBx#, R/Wx#, PAGEx. -/
structure StrobeLevels where
  strobe : Bool
  readWrite : Bool
  page : Bool
deriving DecidableEq, Repr

/-- The levels on the signals of a bus (20 R122, 70 R704): STAT(3–0), the two strobe sets, A(30–0), D(31–0); none is high
impedance. -/
structure BusLevels where
  stat : BitVec 4
  set0 : Option StrobeLevels
  set1 : Option StrobeLevels
  address : Option (BitVec 31)
  data : Option Word
deriving DecidableEq, Repr

/-- Bits 2–0 of STAT (20 R122). -/
def statCode : Access → Bool → BitVec 3
  | .program, _ => 0b000
  | .dma, write => if write then 0b110 else 0b010
  | .sigi, _ => 0b011
  | _, write => if write then 0b101 else 0b001

/-- The bus cycle that a waiting access has begun. -/
def Wait.cycle : Wait → Option BusCycle
  | .bus c => some c
  | _ => none

/-- The cycle in progress on a bus: that of the CPU's waiting access, else that of the DMA's. Where both wait on one bus, the
CPU's is shown whichever began first (DESIGN CHOICE, log 32). -/
def State.activeCycle (s : State) (isLocal : Bool) : Option BusCycle :=
  ((s.waiting.bind Wait.cycle).toList ++ (s.dmaHeld.bind fun h => h.why.cycle).toList).find? fun c => c.isLocal == isLocal

/-- A strobe set while a cycle is in progress, or none; `set1` selects the second. R/Wx# is low only in a write cycle (DESIGN
CHOICE, log 10: its idle level after a cycle is not stated). -/
def strobeLevels (c : Option BusCycle) (set1 : Bool) : StrobeLevels :=
  match c.filter fun c => c.strobe1 == set1 with
  | none => ⟨true, true, false⟩
  | some c => ⟨false, c.data.isNone, c.page⟩

/-- The enable pins of a bus: AE#, CE0#, CE1#, DE#, true where active. The local bus stays inside the package. -/
def State.enables (s : State) (isLocal : Bool) : Bool × Bool × Bool × Bool :=
  if isLocal then (true, true, true, true) else (s.pins.ae, s.pins.ce0, s.pins.ce1, s.pins.de)

/-- A driven signal, or high impedance. -/
def driven {α : Type} (enable : Bool) (v : α) : Option α := if enable then some v else none

/-- What a bus shows (20 R122): the access in progress, else the idle levels, with the last address kept; the enable pins put
A(30–0), the strobe sets and D(31–0) in high impedance. -/
def State.levels (s : State) (isLocal : Bool) : BusLevels :=
  let c := s.activeCycle isLocal
  let (ae, ce0, ce1, de) := s.enables isLocal
  { stat := match c with | none => 0xF | some c => BitVec.ofBool c.strobe1 ++ statCode c.access c.data.isSome
    set0 := driven ce0 (strobeLevels c false)
    set1 := driven ce1 (strobeLevels c true)
    address := if ae then (match c with | none => (s.bus isLocal).address | some c => some c.address) else none
    data := if de then c.bind BusCycle.data else none }

/-- An access of the CPU or the DMA finds the peripheral bus held by the other's access to a FIFO (65 R513). -/
def State.peripheralHeld (s : State) (k : Access) : Bool :=
  if k = .dma then s.waiting == some .fifo else s.dmaHeld.any fun h => h.why == .fifo

/-- An address of the peripheral bus. -/
def Region.peripheral : Region → Bool
  | .control _ | .timer _ _ | .port _ _ | .dma _ _ => true
  | _ => false

/-- An access cannot begin: it needs the peripheral bus, which is held. -/
def State.blocked (s : State) (k : Access) (a : Word) : Bool :=
  (region s.pins.romen a).peripheral && s.peripheralHeld k

/-! ### One word read -/

/-- A read that finishes with a value and new devices. -/
def State.readOk (s : State) (v : Word) (d : Devices) : Res Word := .ok v { s with dev := d }

/-- A read whose value is free (93 U1, U4): one draw. -/
def State.readFree (s : State) (a : Word) : Res Word :=
  .ok (Config.freeRead s.draws a) { s with draws := s.draws + 1 }

/-- A read of a port FIFO that is not ready waits, or is aborted by the bus grant with a free value (65 R513, 93 U3). The
grant lasts until the instruction is done, so that it ends every such access of it (log 13). -/
def State.fifoRead (s : State) : Res Word :=
  if s.dev.busGrant then .ok (Config.abortedRead s.draws) { s with draws := s.draws + 1 } else .wait .fifo

/-- A read of a communication port (65 R510, R511); of an unused word it gives a free value (DESIGN CHOICE, log 10). -/
def State.portRead (s : State) (a : Word) (k : Fin 6) (off : Nat) : Res Word :=
  let p := s.dev.ports[k]
  match off with
  | 0 => .ok (merge 0xFFFFE000 (Config.freeRead s.draws a) p.control) { s with draws := s.draws + 1 }
  | 1 => match p.inFifo with
      | [] => s.fifoRead
      | v :: _ => s.readOk v (s.dev.setPort k p.pop)
  | _ => s.readFree a

/-- A read of the commutator (66 R561, R562): RS gives 0 only to an LDII that is granted RC. -/
def State.commutatorRead (s : State) (k : Access) (rc : Bool) : Res Word :=
  if rc then s.readOk (s.dev.rc.setWidth 32) s.dev
  else match k with
    | .interlocked =>
        match s.dev.owner with
        | .other => s.readOk 1 s.dev
        | _ => s.readOk 0 { s.dev with owner := .mine }
    | _ => s.readOk 1 s.dev

/-- A read on the local bus where nothing answers (20 R123, 66 R565). -/
def State.localRead (s : State) (k : Access) (a : Word) : Res Word :=
  if localWaits s a then .wait (.bus (s.busCycle k a none)) else s.readFree a

/-- The word in a RAM of a switched device; that of the 1553 device has sixteen bits (66 R602). -/
def State.deviceWord (s : State) (d : Device) (a : Word) : Word :=
  if d = .mil then Memory.readWord s.mem a &&& 0xFFFF else Memory.readWord s.mem a

/-- A word of the boot ROM: of the image the host supplies, else one that is open (70 R710, 92 D66). -/
def State.romWord (s : State) (i : BitVec 12) : Word :=
  match s.romImage with
  | some v => v[i.toNat]'i.isLt
  | none => Config.bootRom i

/-- What stands behind an address, read once (20 R110–R112). -/
def readAt (k : Access) (a : Word) (s : State) : Res Word :=
  match region s.pins.romen a with
  | .ram => .ok (Memory.readWord s.mem a) s
  | .rom i => .ok (s.romWord i) s
  | .global =>
      if !globalReady s a false then .wait (.bus (s.busCycle k a none))
      else if s.populated a then .ok (Memory.readWord s.mem a) s
      else s.readFree a
  | .control isLocal => .ok (busControl s isLocal) s
  | .timer n off =>
      match (s.dev.timers[n]).read (s.pins.tclk.getLsbD n.val) off with
      | some v => .ok v s
      | none => s.readFree a
  | .port p off => s.portRead a p off
  | .dma c off =>
      match (s.dev.dma[c]).read off with
      | some x => s.readOk x.1 { s.dev with dma := s.dev.dma.set c x.2 }
      | none => s.readFree a
  | .commutator rc => if strobe0 s a then s.commutatorRead k rc else s.localRead k a
  | .device d off =>
      if answers s d a then
        match s.dev.readDevice d off s.draws a with
        | some x => .ok x.1 { s with dev := x.2, draws := s.draws + 1 }
        | none => s.readFree a
      else s.localRead k a
  | .deviceRam d => if answers s d a then .ok (s.deviceWord d a) s else s.localRead k a
  | .pll => if answers s .uart a then s.readOk (s.dev.pll.setWidth 32) s.dev else s.localRead k a
  | .localBus => s.localRead k a
  | .localVoid => if localWaits s a then .wait (.reserved k) else s.readFree a
  | .reserved => s.readFree a

/-- One word read: what stands behind the address, and the cycle an external bus shows. -/
def memRead (k : Access) (a : Word) (s : State) : Res Word :=
  if s.blocked k a then .wait .peripheral else (readAt k a s).bind fun v t => .ok v (s.shows k a none t)

/-! ### One word write -/

/-- A write that finishes with new devices. -/
def State.writeOk (s : State) (d : Devices) : Res Unit := .ok () { s with dev := d }

/-- A write of a port FIFO that is full waits, or is aborted by the bus grant (65 R513). -/
def State.fifoWrite (s : State) : Res Unit := if s.dev.busGrant then .ok () s else .wait .fifo

/-- A write of a communication port (65 R510, R511): the input FIFO is read-only. The words B + 4 to B + Fh, which R510 calls
unused, are taken for reserved ones, so that a store there stops, as a read gives a free value (DESIGN CHOICE, log 10). -/
def State.portWrite (s : State) (a v : Word) (k : Fin 6) (off : Nat) : Res Unit :=
  let p := s.dev.ports[k]
  match off with
  | 0 => s.writeOk (s.dev.setPort k (p.writeControl v))
  | 1 => s.writeOk s.dev
  | 2 => if p.ocRdy then s.writeOk (s.dev.setPort k (p.push v)) else s.fifoWrite
  | 3 => s.writeOk (s.dev.setPort k p.clear)
  | _ => .fault (.reservedWrite a)

/-- A write of the commutator (66 R561, R562): RC only while this core holds it, RS released by STII. -/
def State.commutatorWrite (s : State) (k : Access) (v : Word) (rc : Bool) : Res Unit :=
  if rc then s.writeOk { s.dev with rc := if s.dev.owner = .mine then v.extractLsb' 0 8 else s.dev.rc }
  else match k with
    | .interlocked => s.writeOk { s.dev with owner := if s.dev.owner = .mine then .free else s.dev.owner }
    | _ => s.writeOk s.dev

/-- A write on the local bus where nothing answers (20 R123, 66 R565): it waits, or is lost on the bus. -/
def State.localWrite (s : State) (k : Access) (a v : Word) : Res Unit :=
  if localWaits s a then .wait (.bus (s.busCycle k a (some v))) else .ok () s

/-- What stands behind an address, written once (20 R110–R112). -/
def writeAt (k : Access) (a v : Word) (s : State) : Res Unit :=
  match region s.pins.romen a with
  | .ram => .ok () { s with mem := Memory.writeWord s.mem a v }
  | .rom _ => .ok () s
  | .global =>
      if !globalReady s a true then .wait (.bus (s.busCycle k a (some v)))
      else if s.populated a then .ok () { s with mem := Memory.writeWord s.mem a v }
      else .ok () s
  | .control isLocal =>
      s.writeOk (if isLocal then { s.dev with localControl := v &&& 0x3FFFFFF0 }
        else { s.dev with globalControl := v &&& 0x3FFFFFF0 })
  | .timer n off =>
      match (s.dev.timers[n]).write off v with
      | some x => s.writeOk (s.dev.setTimer n x)
      | none => .fault (.reservedWrite a)
  | .port p off => s.portWrite a v p off
  | .dma c off =>
      match (s.dev.dma[c]).write (c == 0) off v with
      | some x => s.writeOk { s.dev with dma := s.dev.dma.set c x }
      | none => .fault (.reservedWrite a)
  | .commutator rc => if strobe0 s a then s.commutatorWrite k v rc else s.localWrite k a v
  | .device d off =>
      if answers s d a then
        match s.dev.writeDevice d off v with
        | some x => s.writeOk x
        | none => .fault (.reservedWrite a)
      else s.localWrite k a v
  | .deviceRam d =>
      if answers s d a then
        .ok () { s with mem := Memory.writeWord s.mem a (if d = .mil then v &&& 0xFFFF else v) }
      else s.localWrite k a v
  | .pll => if answers s .uart a then s.writeOk { s.dev with pll := pllWrite v } else s.localWrite k a v
  | .localBus => if localWaits s a then .wait (.bus (s.busCycle k a (some v))) else .fault (.reservedWrite a)
  | .localVoid => if localWaits s a then .wait (.reserved k) else .fault (.reservedWrite a)
  | .reserved => .fault (.reservedWrite a)

/-- One word write: what stands behind the address, and the cycle an external bus shows. -/
def memWrite (k : Access) (a v : Word) (s : State) : Res Unit :=
  if s.blocked k a then .wait .peripheral else (writeAt k a v s).bind fun _ t => .ok () (s.shows k a (some v) t)

end Sys2Proof.Machine
end

