-- ==== Sys2Proof/Machine/Ops.lean ====
section
/-! DEFINITION. The operations the meanings share: registers (spec 10), sequencing and the repeat mode (43 R370, R380),
conditions (30 R190), the stack (40 R217), taking an interrupt or a trap and returning from it (60 R652, R661, 43 R366). -/

namespace Sys2Proof.Machine

/-! ### Status bits (10 R29) -/

/-- A bit of ST. -/
def State.stBit (s : State) (i : Nat) : Bool := s.st.getLsbD i
def State.carry (s : State) : Bool := s.stBit 0
def State.overflow (s : State) : Bool := s.stBit 1
def State.zero (s : State) : Bool := s.stBit 2
def State.negative (s : State) : Bool := s.stBit 3
def State.underflow (s : State) : Bool := s.stBit 4
def State.latchedOverflow (s : State) : Bool := s.stBit 5
def State.latchedUnderflow (s : State) : Bool := s.stBit 6
/-- OVM: saturation of integer results (10 R31). -/
def State.ovm (s : State) : Bool := s.stBit 7
/-- RM: a repeat mode is active (10 R32). -/
def State.repeatMode (s : State) : Bool := s.stBit 8
/-- CF: the cache is frozen (10 R34). -/
def State.cacheFrozen (s : State) : Bool := s.stBit 10
/-- CE: the cache is enabled (10 R34). -/
def State.cacheEnabled (s : State) : Bool := s.stBit 11
/-- GIE: maskable interrupts are enabled (10 R35). -/
def State.gie (s : State) : Bool := s.stBit 13
/-- SC: flags follow every destination but ST (10 R36). -/
def State.setCondition (s : State) : Bool := s.stBit 15

/-- The bits of ST that a write changes: 15–0 and 19–18, CC (12) reading 0 always (10 R29, R34, R38). -/
def stWritable : Word := 0x000CEFFF

/-- The bits of ST that read as free values (10 R29). -/
def stFree : Word := 0xFFF30000

/-! ### The IIOF lines and IIF (10 R44, 60 R657, 66 R564) -/

/-- The device whose request replaces pin IIOFx (66 R564). -/
def iiofDevice (x : Fin 4) : Device :=
  match x with | 0 => .usb | 1 => .ethernet | 2 => .mil | 3 => .uart

/-- Whether a device requests an interrupt. -/
def Devices.request (d : Devices) (k : Device) : Bool :=
  match k with
  | .usb => d.usb.request
  | .ethernet => d.ethernet.request
  | .mil => d.mil.request
  | .uart => d.uart.request

/-- FUNCx and TYPEx. -/
def State.iiofFunc (s : State) (x : Fin 4) : Bool := s.iif.getLsbD (4 * x.val)
def State.iiofType (s : State) (x : Fin 4) : Bool := s.iif.getLsbD (4 * x.val + 1)

/-- IIOFx is a general-purpose output: FLAGx drives its pin (10 R44). -/
def State.iiofOutput (s : State) (x : Fin 4) : Bool := !s.iiofFunc x && s.iiofType x

/-- The level of IIOFx# as the core sees it: the inverted request of the device connected to this core in the pin's place,
else the level the core itself drives as an output (10 R44; that the edge detector sees it too is a DESIGN CHOICE, log 19),
else the pin. -/
def State.iiofLevel (s : State) (x : Fin 4) : Bool :=
  if connectedTo s.dev.rc s.pins.core2 (iiofDevice x) then !s.dev.request (iiofDevice x)
  else if s.iiofOutput x then s.iif.getLsbD (4 * x.val + 2)
  else s.pins.iiof.getLsbD x.val

/-- FLAGx as it reads (10 R44, 60 R657): the pin as an input, the stored bit as an output or edge interrupt; as a level
interrupt 1 while the pin is low or software has just written 1, and 0 after an acknowledge or a written 0. -/
def State.iiofFlag (s : State) (x : Fin 4) : Bool :=
  match s.iiofFunc x, s.iiofType x with
  | false, false => s.iiofLevel x
  | true, true => (!s.iiofLevel x || s.levelRaise.getLsbD x.val) && !s.levelAck.getLsbD x.val
  | _, _ => s.iif.getLsbD (4 * x.val + 2)

/-- IIF as it reads. -/
def State.readIif (s : State) : Word :=
  let v := putBit s.iif 2 (s.iiofFlag 0)
  let v := putBit v 6 (s.iiofFlag 1)
  let v := putBit v 10 (s.iiofFlag 2)
  putBit v 14 (s.iiofFlag 3)

/-- FLAGx of a written value: stored only for an output or an edge interrupt. -/
def storedFlag (v : Word) (x : Nat) : Bool := (v.getLsbD (4 * x) ^^ v.getLsbD (4 * x + 1)) && v.getLsbD (4 * x + 2)

/-- The level pins of a written value whose FLAG is written as `b` (10 R44). -/
def levelFlags (v : Word) (b : Bool) : BitVec 4 :=
  let pin (x : Nat) : Bool := v.getLsbD (4 * x) && v.getLsbD (4 * x + 1) && v.getLsbD (4 * x + 2) == b
  BitVec.ofBool (pin 3) ++ BitVec.ofBool (pin 2) ++ BitVec.ofBool (pin 1) ++ BitVec.ofBool (pin 0)

/-- A write of IIF (10 R44): NMI and bits 23–17 are read-only; a FLAG written as 0 clears a request. The FLAG of a level pin
is not latched: written as 1 it is like a signal that arrives in the next step, written as 0 like an acknowledge (60 R657;
DESIGN CHOICE, log 19). -/
def State.writeIif (s : State) (v : Word) : State :=
  let w := merge 0xFF00FFFF v (s.iif &&& 0x00010000)
  let w := putBit w 2 (storedFlag v 0)
  let w := putBit w 6 (storedFlag v 1)
  let w := putBit w 10 (storedFlag v 2)
  { s with iif := putBit w 14 (storedFlag v 3), claimed := s.claimed &&& v
           raisePending := s.raisePending ||| levelFlags v true, ackPending := s.ackPending ||| levelFlags v false }

/-! ### The instruction cache (20 R125–R127) -/

/-- Every present flag cleared (10 R34, 92 D3). -/
def Cache.clear (c : Cache) : Cache := { c with segs := c.segs.map fun g => { g with present := 0 } }

/-- The segment that holds an address. -/
def Cache.find (c : Cache) (a : Word) : Option (Fin 4) :=
  ([0, 1, 2, 3] : List (Fin 4)).find? fun i => (c.segs[i]).ssa == a.extractLsb' 5 27

/-- A segment moves to the top of the LRU stack. -/
def Cache.touch (c : Cache) (i : Fin 4) : Cache := { c with lru := i :: c.lru.filter (· != i) }

/-- The cached word of an address, if it is present. -/
def Cache.lookup (c : Cache) (a : Word) : Option Word :=
  match c.find a with
  | some i =>
      if (c.segs[i]).present.getLsbD (bits a 0 5) then some (c.segs[i]).words[(a.extractLsb' 0 5).toFin] else none
  | none => none

/-- The cache after a hit: its segment is the most recently used. -/
def Cache.hit (c : Cache) (a : Word) : Cache :=
  match c.find a with | some i => c.touch i | none => c

/-- The cache after a miss filled with the word read (20 R126): a word of its segment, or the least recently used segment
taken over. -/
def Cache.fill (c : Cache) (a w : Word) : Cache :=
  let i := (c.find a).getD (c.lru.getLast?.getD 0)
  let g := c.segs[i]
  let present := if (c.find a).isSome then g.present else 0
  let g : Segment := { ssa := a.extractLsb' 5 27, present := putBit present (bits a 0 5) true
                       words := g.words.set (bits a 0 5) w (a.extractLsb' 0 5).isLt }
  { c with segs := c.segs.set i g }.touch i

/-! ### Registers (10 R21–R48) -/

/-- ST as it reads: the read-only bits are free (10 R29). -/
def State.readSt (s : State) : Word := merge stFree (Config.stReserved s.draws) s.st

/-- A write of ST (10 R38): bit for bit where writable; a 1 in CC clears the cache and is not kept (R34). The hidden bit S of
the repeat logic is no bit of ST and stays, so that RM written 0 and then 1 goes on with a single-instruction repeat (43
R370 does not say; DESIGN CHOICE, log 14). -/
def State.writeSt (s : State) (v : Word) : State :=
  { s with st := v &&& stWritable, cache := if v.getLsbD 12 then s.cache.clear else s.cache }

/-- What a register that LDPK, LDP and LDA load reads as an operand: the value of one right behind the instruction, which has
loaded it already, else what it holds (70 R729, 92 D56). -/
def State.newest (s : State) (d : Reg) (held : Word) : Word :=
  match s.early with
  | some (e, v) => if e = d then v else held
  | none => held

/-- A register as an integer operand: bits 31–0 (40 R200). -/
def State.get (s : State) : Reg → Word
  | .r n => (s.r[n]).setWidth 32
  | .ar n => s.newest (.ar n) s.ar[n]
  | .dp => s.newest .dp (s.dp.setWidth 32)
  | .ir0 => s.newest .ir0 s.ir0
  | .ir1 => s.newest .ir1 s.ir1
  | .bk => s.newest .bk s.bk
  | .sp => s.newest .sp s.sp
  | .st => s.readSt
  | .die => s.die
  | .iie => s.iie
  | .iif => s.readIif
  | .rs => s.rs
  | .re => s.re
  | .rc => s.rc

/-- A 40-bit register with its low 32 bits replaced; bits 39–32 are kept (10 R22). -/
def withLow (x : Ext) (v : Word) : Ext := x.extractLsb' 32 8 ++ v

/-- An integer written to a register (40 R200). -/
def State.put (s : State) (d : Reg) (v : Word) : State :=
  match d with
  | .r n => { s with r := s.r.set n (withLow (s.r[n]) v) }
  | .ar n => { s with ar := s.ar.set n v }
  | .dp => { s with dp := v.setWidth 16 }
  | .ir0 => { s with ir0 := v }
  | .ir1 => { s with ir1 := v }
  | .bk => { s with bk := v }
  | .sp => { s with sp := v }
  | .st => s.writeSt v
  | .die => { s with die := v }
  | .iie => { s with iie := v }
  | .iif => s.writeIif v
  | .rs => { s with rs := v }
  | .re => { s with re := v }
  | .rc => { s with rc := v }

/-- An extended-precision register, all 40 bits. -/
def State.getF (s : State) (n : FReg) : Ext := s.r[n]

/-- All 40 bits of an extended-precision register written. -/
def State.putF (s : State) (n : FReg) (v : Ext) : State := { s with r := s.r.set n v }

/-- R0–R7 of a parallel instruction as an extended-precision register. -/
def fregOf (n : PReg) : FReg := ⟨n.val, by omega⟩

/-- An expansion register. -/
def State.getX (s : State) : XReg → Word
  | .ivtp => s.ivtp
  | .tvtp => s.tvtp

/-- A write of an expansion register: bits 8–0 are not stored (10 R48, 93 U2). -/
def State.putX (s : State) (d : XReg) (v : Word) : State :=
  match d with
  | .ivtp => { s with ivtp := v &&& 0xFFFFFE00 }
  | .tvtp => { s with tvtp := v &&& 0xFFFFFE00 }

/-! ### Conditions (30 R190) -/

/-- A condition evaluated on the present flags. -/
def State.cond (s : State) : Cond → Bool
  | .u => true
  | .lo => s.carry
  | .ls => s.carry || s.zero
  | .hi => !s.carry && !s.zero
  | .hs => !s.carry
  | .eq => s.zero
  | .ne => !s.zero
  | .lt => s.negative
  | .le => s.negative || s.zero
  | .gt => !s.negative && !s.zero
  | .ge => !s.negative
  | .nv => !s.overflow
  | .v => s.overflow
  | .nuf => !s.underflow
  | .uf => s.underflow
  | .nlv => !s.latchedOverflow
  | .lv => s.latchedOverflow
  | .nluf => !s.latchedUnderflow
  | .luf => s.latchedUnderflow
  | .zuf => s.zero || s.underflow

/-! ### Sequencing (43 R370, R380) -/

/-- RC after the last pass of a one-instruction block or of RPTS: 0 or FFFF FFFFh, which is open (92 D52). -/
def State.finalRc (s : State) : Word := if Config.rcFinalMinusOne s.draws then 0xFFFFFFFF else 0

/-- One pass under RPTS (43 R370, S = 1). -/
def State.advanceSingle (s : State) : State :=
  let rc := s.rc - 1
  if rc.msb then { s with rc := s.finalRc, st := putBit s.st 8 false, repeatSingle := false, irHeld := false, pc := s.pc + 1 }
  else { s with rc := rc, irHeld := true }

/-- The last instruction of a block under RPTB (43 R370, S = 0). -/
def State.advanceBlock (s : State) : State :=
  let rc := s.rc - 1
  if rc.msb then
    { s with rc := if s.rs = s.re then s.finalRc else 0, st := putBit s.st 8 false, repeatSingle := false, pc := s.pc + 1 }
  else { s with rc := rc, pc := s.rs }

/-- The program counter and the repeat registers after the fetch of an instruction that is in no delay slot (43 R370). -/
def State.advance (s : State) : State :=
  if s.repeatMode then
    if s.repeatSingle then s.advanceSingle
    else if s.pc = s.re then s.advanceBlock
    else { s with pc := s.pc + 1 }
  else { s with pc := s.pc + 1, irHeld := false }

/-- The program counter after the fetch of a delay slot (43 R380); the repeat comparison does not apply (R373). -/
def State.advanceSlot (s : State) (d : Delay) : State :=
  match d.left with
  | .three => { s with delay := some { d with left := .two }, pc := s.pc + 1 }
  | .two => { s with delay := some { d with left := .one }, pc := s.pc + 1 }
  | .one => { s with delay := none, pc := d.dest }

/-- Everything that happens before an instruction's own effect: one draw, no access waiting, and the advance of the
program counter. A meaning starts from this state. -/
def State.sequenced (s : State) : State :=
  let s := { s with draws := s.draws + 1, waiting := none }
  match s.delay with
  | none => s.advance
  | some d => s.advanceSlot d

/-- A delayed branch is in flight: three slots, then `dest` (43 R380). -/
def State.delayed (s : State) (dest : Word) (annulled : Bool) (kind : DelayKind) : State :=
  { s with delay := some ⟨.three, dest, annulled, kind⟩ }

/-! ### The system stack (40 R217) -/

/-- Push: SP is incremented, then the word is written at SP. -/
def State.push (s : State) (v : Word) : Res Unit := memWrite .plain (s.sp + 1) v { s with sp := s.sp + 1 }

/-- Pop: the word at SP is read, then SP is decremented. -/
def State.pop (s : State) : Res Word :=
  (memRead .plain s.sp s).bind fun v t => .ok v { t with sp := t.sp - 1 }

/-! ### Exceptions: interrupts, traps and the return from them (60 R652, R661; 43 R366) -/

/-- The status change of every interrupt and trap: PGIE ← GIE, PCF ← CF, GIE ← 0, CF ← 1 (60 R652). -/
def State.saveStatus (s : State) : State :=
  let st := putBit s.st 14 s.gie
  let st := putBit st 9 s.cacheFrozen
  { s with st := putBit (putBit st 13 false) 10 true }

/-- The status change of a return: GIE ← PGIE, CF ← PCF (43 R366). -/
def State.restoreStatus (s : State) : State :=
  { s with st := putBit (putBit s.st 13 (s.stBit 14)) 10 (s.stBit 9) }

/-- The address of a vector in a table on a 512-word boundary (60 R655, R661; 93 U2). -/
def vectorAddress (table : Word) (n : BitVec 9) : Word := (table &&& 0xFFFFFE00) + n.setWidth 32

/-- A software trap (43 R368): status saved, return address pushed, then the vector read from the trap vector table. -/
def State.trap (s : State) (n : BitVec 9) (ret : Word) : Res Unit :=
  (s.saveStatus.push ret).bind fun _ t =>
    (memRead .plain (vectorAddress t.tvtp n) t).bind fun v u => .ok () { u with pc := v }

/-- The bit of IIF that records interrupt `v` (60 R651), if it has one. -/
def flagBit (v : Nat) : Option Nat :=
  if v = 1 then some 16
  else if v = 2 then some 24
  else if 3 ≤ v ∧ v ≤ 6 then some (4 * (v - 3) + 2)
  else if 0x25 ≤ v ∧ v ≤ 0x2B then some (v - 0x25 + 25)
  else none

/-- A taken interrupt is acknowledged inside the core (60 R652, R657): its flag is cleared; a level interrupt reads 0 in the next
step. This drives no pin (60 R662): the pulse of IACK# "on interrupt acknowledge" of 10 R49 is that of the IACK instruction by
which a handler tells it (43 R379; DEDUCED, log 20). -/
def State.acknowledge (s : State) (v : Nat) : State :=
  match flagBit v with
  | none => s
  | some b =>
      let s := { s with claimed := putBit s.claimed b false }
      if 3 ≤ v ∧ v ≤ 6 ∧ s.iif.getLsbD (4 * (v - 3) + 1) then { s with ackPending := putBit s.ackPending (v - 3) true }
      else { s with iif := putBit s.iif b false }

/-- The entry of interrupt `v` behind its acknowledge (60 R652, 92 D65): vector read, status saved, PC pushed, PC ← vector. -/
def State.serve (s : State) (v : Nat) : Res Unit :=
  let s := { s with draws := s.draws + 1, phase := .running, waiting := none, entering := none, busy := ⟨0, 0, 0⟩ }
  (memRead .plain (vectorAddress s.ivtp (BitVec.ofNat 9 v)) s).bind fun a t =>
    (t.saveStatus.push t.pc).bind fun _ u => .ok () { u with pc := a }

/-- Taking interrupt `v` (60 R652): it is acknowledged, then its entry. -/
def State.interrupt (s : State) (v : Nat) : Res Unit := (s.acknowledge v).serve v

/-- Return from an interrupt or trap (43 R366): PC ← pop, GIE ← PGIE, CF ← PCF. The popped address is handed on. -/
def State.exceptionReturn (s : State) : Res Word := s.pop.bind fun v t => .ok v t.restoreStatus

/-! ### The lock signals (44 R425) -/

/-- The lock signal of the bus that an address uses takes a level, a change of which is seen outside; on-chip addresses
drive none. -/
def State.setLock (s : State) (a : Word) (level : Bool) : State :=
  if s.onBus a then
    (if a.msb then { s with lockGlobal := level, outputs := s.outputs ++ if s.lockGlobal = level then [] else [.lock false level] }
     else { s with lockLocal := level, outputs := s.outputs ++ if s.lockLocal = level then [] else [.lock true level] })
  else s

/-! ### The outcome of a meaning -/

/-- The outcome of a meaning on `s`: a wait leaves the state as it was, marked, to be tried again (log 13). -/
def State.finish (s : State) (x : Res Unit) : Host.Outcome State Fault Refusal :=
  match x with
  | .ok _ t => .next t
  | .wait w => .next { s with waiting := some w }
  | .fault f => .fault f
  | .refused r => .refused r

/-! ### The IACK# pulse (60 R662) -/

/-- IACK# goes low for a read at an external address, and stays low while it waits. -/
def State.iackFall (s : State) (a : Word) : State := if s.onBus a then { s with iack := false } else s

/-- The end of the read: IACK# goes high, and an external one has pulsed. -/
def State.iackRise (s : State) (a : Word) : State :=
  if s.onBus a then { s with iack := true, outputs := s.outputs ++ [.iack a] } else s

end Sys2Proof.Machine
end

