-- ==== Sys2Proof/Machine/Operands.lean ====
section
/-! DEFINITION. Operand forms: addresses and auxiliary-register updates (spec 40 R205–R216), the source operand of the
general group (40 R200), the operand pair of the three-operand group (42 R330). -/

namespace Sys2Proof.Machine

/-! ### Address arithmetic -/

/-- The bits of a word in reverse order. -/
def reverseBits (v : Word) : Word := BitVec.ofBoolListBE ((List.range 32).map fun i => v.getLsbD i) |>.setWidth 32

/-- B(a, b): addition with reverse carry propagation over 32 bits (40 R216, 92 D42). -/
def reverseAdd (a b : Word) : Word := reverseBits (reverseBits a + reverseBits b)

/-- N of 40 R215: the position of the most significant 1 among bits 15–0 of BK, none where there is none. -/
def blockTop (bk : Word) : Option Nat := if bits bk 0 16 = 0 then none else some (Nat.log2 (bits bk 0 16))

/-- circ(ARn, step), evaluated once on all of BK, read as an unsigned number (40 R215, 92 D45; log 27); with BK[15:0] = 0 the
new ARn is free (93 U32). -/
def circular (draw : Nat) (a bk : Word) (step : Int) : Word :=
  match blockTop bk with
  | none => Config.circularNoBlock draw a
  | some n =>
      let index : Int := bits a 0 (n + 1)
      let t := index + step
      let size : Int := bk.toNat
      let t := if 0 ≤ t ∧ t < size then t else if size ≤ t then t - size else t + size
      (a >>> (n + 1) <<< (n + 1)) ||| BitVec.ofInt 32 t

/-- x of 40 R212: the displacement, IR0 or IR1. -/
def State.index (s : State) (disp : Word) : Index → Word
  | .disp => disp
  | .ir0 => s.ir0
  | .ir1 => s.ir1

/-- The address of an indirect operand (40 R211, R212). -/
def State.indAddr (s : State) (i : Ind) (disp : Word) : Word :=
  let a := s.ar[i.n]
  match i.mode with
  | .plain | .bitRev => a
  | .indexed x m =>
      match m with
      | .preAdd | .preAddModify => a + s.index disp x
      | .preSub | .preSubModify => a - s.index disp x
      | .postAdd | .postSub | .postAddCirc | .postSubCirc => a

/-- The value an indirect operand writes back to its ARn, none where the mode writes none (40 R211, R212). -/
def State.indNew (s : State) (i : Ind) (disp : Word) : Option Word :=
  let a := s.ar[i.n]
  match i.mode with
  | .plain => none
  | .bitRev => some (reverseAdd a s.ir0)
  | .indexed x m =>
      let d := s.index disp x
      match m with
      | .preAdd | .preSub => none
      | .preAddModify | .postAdd => some (a + d)
      | .preSubModify | .postSub => some (a - d)
      | .postAddCirc => some (circular s.draws a s.bk d.toNat)
      | .postSubCirc => some (circular s.draws a s.bk (-(d.toNat : Int)))

/-- ARn written back. -/
def State.writeBack (s : State) (n : Fin 8) (v : Option Word) : State :=
  match v with
  | none => s
  | some v => { s with ar := s.ar.set n v }

/-- The implied displacement of operands without a displacement field (40 R210). -/
def implied : Word := 1

/-- The write-back of one indirect operand. -/
def State.indUpdate (s : State) (i : Ind) (disp : Word) : State := s.writeBack i.n (s.indNew i disp)

/-- The write-backs of two indirect operands, both from the old registers: `hi`, the field in bits 15–8, wins on the same
ARn (40 R213, 92 D44). -/
def State.indUpdate2 (s : State) (hi lo : Ind) : State :=
  (s.writeBack lo.n (s.indNew lo implied)).writeBack hi.n (s.indNew hi implied)

/-- A direct address: DP ++ expr (40 R205). -/
def State.direct (s : State) (e : BitVec 16) : Word := s.dp ++ e

/-- The address of a memory operand of the general group. -/
def State.memAddr (s : State) : Mem → Word
  | .dir e => s.direct e
  | .ind i d => s.indAddr i (d.setWidth 32)

/-- The auxiliary-register update of a memory operand of the general group. -/
def State.memUpdate (s : State) : Mem → State
  | .dir _ => s
  | .ind i d => s.indUpdate i (d.setWidth 32)

/-- A type-2 memory operand *+ARn(disp) (30 R179). -/
def State.dispAddr (s : State) (d : Disp) : Word := s.ar[d.n] + d.d.setWidth 32

/-! ### Immediates and formats (30 R150, R151, R163) -/

/-- The 16-bit immediate sign-extended. -/
def sext16 (v : BitVec 16) : Word := v.signExtend 32

/-- The 16-bit immediate zero-extended. -/
def zext16 (v : BitVec 16) : Word := v.setWidth 32

/-- single → extended: a bit copy with eight zero fraction bits (30 R163). -/
def singleToExtended (w : Word) : Ext := w ++ (0 : BitVec 8)

/-- extended → single: the eight low fraction bits are cut (30 R163). -/
def extendedToSingle (x : Ext) : Word := x.extractLsb' 8 32

/-- short → extended; the short zero becomes the extended zero (30 R163). -/
def shortToExtended (v : BitVec 16) : Ext :=
  if v.extractLsb' 12 4 = 8 then 0x8000000000
  else (v.extractLsb' 12 4).signExtend 8 ++ v.extractLsb' 0 12 ++ (0 : BitVec 20)

/-! ### Operand fetch -/

/-- One memory operand of the general group: its address from the old registers, its write-back, its word. -/
def State.fetch (s : State) (k : Access) (m : Mem) : Res Word := memRead k (s.memAddr m) (s.memUpdate m)

/-- One indirect operand with the implied displacement. -/
def State.fetchInd (s : State) (i : Ind) : Res Word := memRead .plain (s.indAddr i implied) (s.indUpdate i implied)

/-- Two indirect operands, the one in bits 15–8 read first (40 R213). -/
def State.fetchInd2 (s : State) (hi lo : Ind) : Res (Word × Word) :=
  (memRead .plain (s.indAddr hi implied) (s.indUpdate2 hi lo)).bind fun x t =>
    (memRead .plain (s.indAddr lo implied) t).bind fun y u => .ok (x, y) u

/-- A source operand of the general group, over what a register, a memory word and an immediate read as (40 R200). -/
def State.source {ρ α : Type} (s : State) (reg : ρ → α) (word : Word → α) (imm : BitVec 16 → α) (o : Src ρ) : Res α :=
  match o with
  | .reg r => .ok (reg r) s
  | .mem m => (s.fetch .plain m).bind fun w t => .ok (word w) t
  | .imm v => .ok (imm v) s

/-- src_int(G, w) of a signed instruction (40 R200). -/
def State.sourceInt (s : State) (o : Src Reg) : Res Word := s.source s.get id sext16 o

/-- src_int(G, w) of a logical instruction: the immediate is zero-extended (40 R200). -/
def State.sourceUint (s : State) (o : Src Reg) : Res Word := s.source s.get id zext16 o

/-- src_float(G, w) (40 R200). -/
def State.sourceFloat (s : State) (o : Src FReg) : Res Ext := s.source s.getF singleToExtended shortToExtended o

/-- The operand pair of a three-operand instruction (42 R330). -/
def State.operands3 {ρ α : Type} (s : State) (reg : ρ → α) (word : Word → α) (imm : BitVec 8 → α) (o : Tri ρ) :
    Res (α × α) :=
  match o with
  | .regReg a b => .ok (reg a, reg b) s
  | .indReg i b => (s.fetchInd i).bind fun x t => .ok (word x, reg b) t
  | .regInd a j => (s.fetchInd j).bind fun y t => .ok (reg a, word y) t
  | .indInd i j => (s.fetchInd2 i j).bind fun x t => .ok (word x.1, word x.2) t
  | .regImm a k => .ok (reg a, imm k) s
  | .regDisp a d => (memRead .plain (s.dispAddr d) s).bind fun y t => .ok (reg a, word y) t
  | .dispImm d k => (memRead .plain (s.dispAddr d) s).bind fun x t => .ok (word x, imm k) t
  | .dispDisp d e =>
      (memRead .plain (s.dispAddr d) s).bind fun x t =>
        (memRead .plain (s.dispAddr e) t).bind fun y u => .ok (word x, word y) u

/-- The operand pair of an integer or logical instruction: the 8-bit immediate is sign-extended (42 R330). -/
def State.operandsInt (s : State) (o : Tri Reg) : Res (Word × Word) :=
  s.operands3 s.get id (fun k => k.signExtend 32) o

/-- The operand pair of a floating-point instruction; it has no immediate forms (42 R330). -/
def State.operandsFloat (s : State) (o : Tri FReg) : Res (Ext × Ext) :=
  s.operands3 s.getF singleToExtended (fun k => singleToExtended (k.signExtend 32)) o

end Sys2Proof.Machine
end

