-- ==== Sys2Proof/Machine/Flags.lean ====
section
/-! DEFINITION. The seven condition flags (spec 30 R191, R192) and the integer, logical and shift arithmetic with its
flags (41 R251, R261–R309). -/

namespace Sys2Proof.Machine

/-- The flags of a result. `c` is none where C is unchanged; LV is or-ed with `v`, LUF with `luf` (30 R191). -/
structure Flags where
  v : Bool := false
  uf : Bool := false
  n : Bool
  z : Bool
  c : Option Bool := none
  luf : Bool := uf
deriving DecidableEq, Repr

/-- The flags written to ST. -/
def Flags.apply (f : Flags) (st : Word) : Word :=
  let st := putBit st 0 (f.c.getD (st.getLsbD 0))
  let st := putBit st 1 f.v
  let st := putBit st 2 f.z
  let st := putBit st 3 f.n
  let st := putBit st 4 f.uf
  let st := putBit st 5 (st.getLsbD 5 || f.v)
  putBit st 6 (st.getLsbD 6 || f.luf)

/-- The flags written unconditionally: compares, tests and floating-point results. -/
def State.setFlags (s : State) (f : Flags) : State := { s with st := f.apply s.st }

/-- flags_enabled(dst) (30 R192): R0–R11 always, another register but ST when SC = 1. -/
def State.flagsEnabled (s : State) : Reg → Bool
  | .r _ => true
  | .st => false
  | _ => s.setCondition

/-- An integer result written with its flags; the destination is written last (92 D43). -/
def State.result (s : State) (d : Reg) (x : Word × Flags) : State :=
  (if s.flagsEnabled d then s.setFlags x.2 else s).put d x.1

/-- A floating-point result written with its flags. -/
def State.resultF (s : State) (d : FReg) (x : Ext × Flags) : State := (s.setFlags x.2).putF d x.1

/-! ### Integer results (41 R251) -/

/-- A number is outside −2^31 … 2^31 − 1. -/
def overflows (r : Int) : Bool := decide (r < -2147483648) || decide (2147483647 < r)

/-- The 32-bit result: saturated on overflow with OVM = 1, wrapped otherwise. -/
def saturate (ovm : Bool) (r : Int) : Word :=
  if ovm && overflows r then (if 0 < r then 0x7FFFFFFF else 0x80000000) else BitVec.ofInt 32 r

/-- int_result(r) with its flags. -/
def intResult (ovm : Bool) (r : Int) (c : Option Bool) : Word × Flags :=
  let out := saturate ovm r
  (out, { v := overflows r, n := out.msb, z := out == 0, c := c })

/-- The flags of a plain 32-bit value: N and Z from it, V = UF = 0. -/
def plainFlags (v : Word) : Word × Flags := (v, { n := v.msb, z := v == 0 })

/-- The same where the entry lists N as 0. -/
def unsignedFlags (v : Word) : Word × Flags := (v, { n := false, z := v == 0 })

/-- a + b + cin (41 R263, R265). -/
def addInt (ovm cin : Bool) (a b : Word) : Word × Flags :=
  intResult ovm (a.toInt + b.toInt + intOfBool cin) (some (decide (2 ^ 32 ≤ a.toNat + b.toNat + cin.toNat)))

/-- a − b − bin, C the borrow (41 R300, R303). -/
def subInt (ovm bin : Bool) (a b : Word) : Word × Flags :=
  intResult ovm (a.toInt - b.toInt - intOfBool bin) (some (decide (a.toNat < b.toNat + bin.toNat)))

/-- |a|, N = 0 as printed (41 R261). -/
def absInt (ovm : Bool) (a : Word) : Word × Flags :=
  let x := intResult ovm (if a.toInt < 0 then -a.toInt else a.toInt) none
  (x.1, { x.2 with n := false })

/-- The low word of the signed product (41 R276). -/
def mulInt (ovm : Bool) (a b : Word) : Word × Flags := intResult ovm (a.toInt * b.toInt) none

/-- The high word of the signed product, Z from all 64 bits (41 R277). -/
def mulHighSigned (a b : Word) : Word × Flags :=
  let p := BitVec.ofInt 64 (a.toInt * b.toInt)
  (p.extractLsb' 32 32, { n := p.msb, z := p == 0 })

/-- The high word of the unsigned product, N = 0, Z from all 64 bits (41 R278). -/
def mulHighUnsigned (a b : Word) : Word × Flags :=
  let p := BitVec.ofNat 64 (a.toNat * b.toNat)
  (p.extractLsb' 32 32, { n := false, z := p == 0 })

/-! ### Shifts and rotates (41 R268, R274, R287–R298) -/

/-- The shift count: the seven low bits, signed (41 R268). -/
def shiftCount (c : Word) : Int := (c.extractLsb' 0 7).toInt

/-- The carry of a left shift by n > 0: old bit 32 − n, old bit 0 beyond 32 (41 R268, R274). -/
def leftCarry (v : Word) (n : Nat) : Bool := v.getLsbD (32 - n)

/-- ASH (41 R268, 92 D50). -/
def ashInt (v count : Word) : Word × Flags :=
  let n := shiftCount count
  let k := n.natAbs
  if 0 < n then
    let r := v.toInt * 2 ^ k
    let out := BitVec.ofInt 32 r
    (out, { v := overflows r, n := out.msb, z := out == 0, c := some (leftCarry v k) })
  else if n < 0 then
    let out := v.sshiftRight k
    (out, { n := out.msb, z := out == 0, c := some (if 32 < k then v.msb else v.getLsbD (k - 1)) })
  else (v, { n := v.msb, z := v == 0, c := some false })

/-- LSH (41 R274, 92 D50). -/
def lshInt (v count : Word) : Word × Flags :=
  let n := shiftCount count
  let k := n.natAbs
  let (out, c) :=
    if 0 < n then (v <<< k, leftCarry v k)
    else if n < 0 then (v >>> k, if 32 < k then false else v.getLsbD (k - 1))
    else (v, false)
  (out, { n := out.msb, z := out == 0, c := some c })

/-- A rotate left by one, `b` entering at bit 0; C is the bit rotated out (41 R287, R288). -/
def rotateLeft (v : Word) (b : Bool) : Word × Flags :=
  let out := v.extractLsb' 0 31 ++ BitVec.ofBool b
  (out, { n := out.msb, z := out == 0, c := some v.msb })

/-- A rotate right by one, `b` entering at bit 31 (41 R289, R298). -/
def rotateRight (v : Word) (b : Bool) : Word × Flags :=
  let out := BitVec.ofBool b ++ v.extractLsb' 1 31
  (out, { n := out.msb, z := out == 0, c := some (v.getLsbD 0) })

/-- SUBC: one division step, no flags (41 R301). -/
def subcStep (d x : Word) : Word := if x.toNat ≤ d.toNat then ((d - x) <<< 1) ||| 1 else d <<< 1

/-! ### Bytes and half-words (41 R290–R297) -/

/-- Byte b of a word. -/
def byteOf (x : Word) (b : BitVec 2) : Byte := x.extractLsb' (8 * b.toNat) 8

/-- Half-word h of a word. -/
def halfOf (x : Word) (h : BitVec 1) : BitVec 16 := x.extractLsb' (16 * h.toNat) 16

/-- LWLct: the source shifted left by b bytes over the low bytes of dst (41 R294). -/
def mergeLeft (d x : Word) (b : BitVec 2) : Word :=
  merge (BitVec.allOnes 32 <<< (8 * b.toNat)) (x <<< (8 * b.toNat)) d

/-- LWRct: the source shifted right by b bytes under the high bytes of dst (41 R295). -/
def mergeRight (d x : Word) (b : BitVec 2) : Word :=
  merge (BitVec.allOnes 32 >>> (8 * b.toNat)) (x >>> (8 * b.toNat)) d

/-- MBct: the low byte of the source over byte b of dst (41 R296). -/
def mergeByte (d x : Word) (b : BitVec 2) : Word := putField d (8 * b.toNat) 8 (x.extractLsb' 0 8)

/-- MHct: the low half of the source over half h of dst (41 R297). -/
def mergeHalf (d x : Word) (h : BitVec 1) : Word := putField d (16 * h.toNat) 16 (x.extractLsb' 0 16)

end Sys2Proof.Machine
end

