-- ==== Sys2Proof/Machine/Float.lean ====
section
/-! DEFINITION. Floating-point arithmetic over exact integers (spec 30 R160–R167; 41 R252–R259, R282–R307). -/

namespace Sys2Proof.Machine

/-- A number m × 2^(exp − 31), not necessarily normalized: `man` counts units of 2^−31. -/
structure Num where
  man : Int
  exp : Int
deriving DecidableEq, Repr

/-- The exponent field as a signed number. -/
def exponent (x : Ext) : Int := (x.extractLsb' 32 8).toInt

/-- The value of a register: zero whenever the exponent is −128 (30 R161, 92 D40). -/
def Num.ofExt (x : Ext) : Num :=
  let f : Int := bits x 0 31
  if exponent x = -128 then ⟨0, -128⟩
  else ⟨(if x.getLsbD 31 then f - 2 ^ 32 else f + 2 ^ 31), exponent x⟩

/-- −x, exactly. -/
def Num.neg (x : Num) : Num := { x with man := -x.man }

/-- The register pattern of an exponent and a mantissa with its implied bit. -/
def packExt (exp man : Int) : Ext := BitVec.ofInt 8 exp ++ BitVec.ofBool (decide (man < 0)) ++ BitVec.ofInt 31 man

/-- The zero the hardware produces (30 R161). -/
def zeroExt : Ext := 0x8000000000

/-- The most positive extended-precision number. -/
def mostPositive : Ext := 0x7F7FFFFFFF

/-- The most negative extended-precision number. -/
def mostNegative : Ext := 0x7F80000000

/-- The position p with m in [2^p, 2^(p+1)) or [−2^(p+1), −2^p): m × 2^−p is a normalized mantissa. -/
def leading (m : Int) : Int :=
  if 0 < m then Nat.log2 m.toNat else if m = -1 then -1 else Nat.log2 (-m - 1).toNat

/-- m × 2^k, bits below the unit cut (rounding toward −∞). -/
def scale (m k : Int) : Int := if 0 ≤ k then m * 2 ^ k.toNat else m >>> (-k).toNat

/-- float_finish (41 R253): normalization, cut to 31 fraction bits, exponent overflow and underflow. -/
def floatFinish (x : Num) : Ext × Flags :=
  if x.man = 0 then (zeroExt, { n := false, z := true })
  else
    let p := leading x.man
    let e := x.exp + p - 31
    if 127 < e then (if 0 < x.man then mostPositive else mostNegative, { v := true, n := decide (x.man < 0), z := false })
    else if e ≤ -128 then (zeroExt, { uf := true, n := false, z := true })
    else (packExt e (scale x.man (31 - p)), { n := decide (x.man < 0), z := false })

/-- The product, exact (41 R254). -/
def Num.mul (a b : Num) : Num := ⟨a.man * b.man, a.exp + b.exp - 31⟩

/-- The sum on the grid of the larger exponent (41 R255, 92 D46). -/
def Num.add (a b : Num) : Num :=
  if a.man = 0 then b
  else if b.man = 0 then a
  else
    let x := max a.exp b.exp
    ⟨(a.man >>> (x - a.exp).toNat) + (b.man >>> (x - b.exp).toNat), x⟩

/-- float_mul (41 R254). -/
def floatMul (a b : Ext) : Ext × Flags := floatFinish ((Num.ofExt a).mul (Num.ofExt b))

/-- float_add (41 R255). -/
def floatAdd (a b : Ext) : Ext × Flags := floatFinish ((Num.ofExt a).add (Num.ofExt b))

/-- a − b (41 R255). -/
def floatSub (a b : Ext) : Ext × Flags := floatFinish ((Num.ofExt a).add (Num.ofExt b).neg)

/-- −a (41 R280). -/
def floatNeg (a : Ext) : Ext × Flags := floatFinish (Num.ofExt a).neg

/-- |a| (41 R260). -/
def floatAbs (a : Ext) : Ext × Flags :=
  let x := Num.ofExt a
  floatFinish { x with man := x.man.natAbs }

/-- The flags of a floating-point value that is copied (40 R222, R231). -/
def copyFlags (x : Ext) : Ext × Flags :=
  (x, { n := x.getLsbD 31 && decide (exponent x ≠ -128), z := decide (exponent x = -128) })

/-- fix(a): floor, saturated on overflow whatever OVM (41 R258, R271, 92 D53). -/
def fixInt (a : Ext) : Word × Flags :=
  let x := Num.ofExt a
  let big := decide (30 < x.exp)
  let out : Word :=
    if big then (if 0 < x.man then 0x7FFFFFFF else 0x80000000) else BitVec.ofInt 32 (x.man >>> (31 - x.exp).toNat)
  (out, { v := big, n := out.msb, z := out == 0 })

/-- float(n), exact (41 R259). -/
def floatInt (n : Word) : Ext × Flags := floatFinish ⟨n.toInt, 31⟩

/-- NORM (41 R282): the mantissa field without an implied bit is normalized. -/
def normFloat (x : Ext) : Ext × Flags :=
  let m := (x.extractLsb' 0 32).toInt
  if m = 0 then (zeroExt, { n := false, z := true })
  else if exponent x = -128 then (zeroExt, { uf := true, n := false, z := false })
  else floatFinish ⟨m, exponent x⟩

/-- RND (41 R257, R286). -/
def roundFloat (x : Ext) : Ext × Flags :=
  let a := Num.ofExt x
  if a.man = 0 then (zeroExt, { uf := true, n := false, z := false, luf := false })
  else
    let c := floatFinish (a.add ⟨2 ^ 31, a.exp - 24⟩)
    (if c.2.v || c.2.uf then c.1 else c.1 &&& 0xFFFFFFFF00, c.2)

/-! ### IEEE conversion (30 R166, R167) -/

/-- FRIEEE: Table 5.12, flags of 41 R273. -/
def fromIeee (w : Word) : Ext × Flags :=
  let e := w.extractLsb' 23 8
  let s := w.getLsbD 31
  let f := w.extractLsb' 0 23
  let single : Word :=
    if e = 255 then (if s then 0x7F800000 else 0x7F7FFFFF)
    else if e = 0 then 0x80000000
    else if !s then (e - 0x7F) ++ (0 : BitVec 1) ++ f
    else if f = 0 then (e - 0x80) ++ (1 : BitVec 1) ++ (0 : BitVec 23)
    else (e - 0x7F) ++ (1 : BitVec 1) ++ (~~~f + 1)
  (singleToExtended single, { v := e == 255, n := single.getLsbD 23, z := e == 0 })

/-- TOIEEE: Table 5.13, flags of 41 R307 (92 D61). -/
def toIeee (a : Ext) : Ext × Flags :=
  let e := a.extractLsb' 32 8
  let s := a.getLsbD 31
  let f := a.extractLsb' 8 23
  let w : Word :=
    if e = 0x80 ∨ e = 0x81 then 0
    else if !s then (0 : BitVec 1) ++ (e + 0x7F) ++ f
    else if f = 0 then (1 : BitVec 1) ++ (e + 0x80) ++ (0 : BitVec 23)
    else (1 : BitVec 1) ++ (e + 0x7F) ++ (~~~f + 1)
  (singleToExtended w, { v := e == 0x7F && s && f == 0, n := w.msb, z := w == 0 })

/-! ### Estimates (41 R285, R299, 92 D60) -/

/-- The mantissa of an estimate with table entry t, in units of 2^−8: t is its eight fraction bits. -/
def estimateMan (sign : Bool) (t : Nat) : Int := if sign then t - 512 else t + 256

/-- The inputs of a reciprocal entry run from mantissa v/256 to just below (v + 1)/256; the reciprocal mantissa is 2/v, and
the entry's mantissa x/256 is within 2^−8 of it for every one of them. -/
def rcpfAllowed (i : BitVec 9) (t : Nat) : Bool :=
  let v := estimateMan (i.getLsbD 8) (bits i 0 8)
  let x := estimateMan (i.getLsbD 8) t
  decide ((x * v - 131072).natAbs < 512) && decide ((x * (v + 1) - 131072).natAbs ≤ 512)

/-- The entry of the reciprocal table: the implementation's choice where it meets the stated error bound, else the first
entry that does. For v = −2.0 none does, and FFh, the nearest one, stands (log 24). -/
def rcpfEntry (i : BitVec 9) : BitVec 8 :=
  let c := Config.rcpfChoice i
  if c < 256 && rcpfAllowed i c then BitVec.ofNat 8 c
  else BitVec.ofNat 8 (((List.range 256).find? (rcpfAllowed i)).getD 255)

/-- The inputs of a root entry: exponent bit i[8], fraction i[7:0]. The mantissa is 2/√m for an even exponent and √2/√m
for an odd one; the bound is squared: (1 − 2^−8)² < x²·m / (4 or 2) < (1 + 2^−8)². -/
def rsqrfAllowed (i : BitVec 9) (t : Nat) : Bool :=
  let m := bits i 0 8 + 256
  let x := t + 256
  let c := if i.getLsbD 8 then 2 else 4
  decide (c * 255 * 255 * 256 < x * x * m) && decide (x * x * (m + 1) ≤ c * 257 * 257 * 256)

/-- The entry of the reciprocal-square-root table. -/
def rsqrfEntry (i : BitVec 9) : BitVec 8 :=
  let c := Config.rsqrfChoice i
  if c < 256 && rsqrfAllowed i c then BitVec.ofNat 8 c
  else BitVec.ofNat 8 (((List.range 256).find? (rsqrfAllowed i)).getD 255)

/-- RCPF (41 R285). -/
def reciprocal (v : Ext) : Ext × Flags :=
  let e := exponent v
  let s := v.getLsbD 31
  if e = -128 then (mostPositive, { v := true, n := s, z := false })
  else if e = 127 then (zeroExt, { uf := true, n := false, z := true })
  else
    (BitVec.ofInt 8 (-e - 1) ++ BitVec.ofBool s ++ rcpfEntry (BitVec.ofBool s ++ v.extractLsb' 23 8) ++ (0 : BitVec 23),
      { n := s, z := false })

/-- RSQRF (41 R299): the value of a negative input is free (93 U36), the flags are as computed. -/
def rootReciprocal (draw : Nat) (v : Ext) : Ext × Flags :=
  let e := exponent v
  if e = -128 then (mostPositive, { v := true, n := false, z := false })
  else
    let x : Ext := BitVec.ofInt 8 ((-(e + 1)) >>> 1) ++ (0 : BitVec 1) ++
      rsqrfEntry (bitOf v 32 ++ v.extractLsb' 23 8) ++ (0 : BitVec 23)
    (if v.getLsbD 31 then Config.rsqrfNegative draw v else x, { n := false, z := false })

end Sys2Proof.Machine
end

