-- ==== Sys2Proof/Machine/Forms.lean ====
section
/-! DEFINITION. The shapes the meanings are written in: fetch the operands from the sequenced state, compute, write the
flags and the destination (spec 40 R200, 41 R250, 42 R330, 45 R440). -/

namespace Sys2Proof.Machine

/-- An instruction: its effect on the sequenced state, and the outcome. -/
def State.run (s : State) (f : State → Res Unit) : Host.Outcome State Fault Refusal := s.finish (f s.sequenced)

/-- What follows a computation that yields `a`: a state. -/
def Res.andThen {α : Type} (x : Res α) (f : α → State → State) : Res Unit := x.bind fun a t => .ok () (f a t)

/-! ### Two- and three-operand shapes -/

/-- dst ← op(src). -/
def State.unary (_s : State) (d : Reg) (src : Res Word) (op : Word → Word × Flags) : Res Unit :=
  src.andThen fun x t => t.result d (op x)

/-- dst ← op(dst, src), dst read before any update. -/
def State.binary (s : State) (d : Reg) (src : Res Word) (op : Word → Word → Word × Flags) : Res Unit :=
  src.andThen fun x t => t.result d (op (s.get d) x)

/-- Flags of op(dst, src), written unconditionally; no result. -/
def State.compare (s : State) (d : Reg) (src : Res Word) (op : Word → Word → Word × Flags) : Res Unit :=
  src.andThen fun x t => t.setFlags (op (s.get d) x).2

/-- dst ← op(src) in floating point. -/
def State.unaryF (_s : State) (d : FReg) (src : Res Ext) (op : Ext → Ext × Flags) : Res Unit :=
  src.andThen fun x t => t.resultF d (op x)

/-- dst ← op(dst, src) in floating point. -/
def State.binaryF (s : State) (d : FReg) (src : Res Ext) (op : Ext → Ext → Ext × Flags) : Res Unit :=
  src.andThen fun x t => t.resultF d (op (s.getF d) x)

/-- dst ← op(src1, src2) (42 R330). -/
def State.ternary (_s : State) (d : Reg) (src : Res (Word × Word)) (op : Word → Word → Word × Flags) : Res Unit :=
  src.andThen fun x t => t.result d (op x.1 x.2)

/-- dst ← op(src1, src2) in floating point. -/
def State.ternaryF (_s : State) (d : FReg) (src : Res (Ext × Ext)) (op : Ext → Ext → Ext × Flags) : Res Unit :=
  src.andThen fun x t => t.resultF d (op x.1 x.2)

/-! ### Stores -/

/-- A value stored at a memory operand: the address from the old registers, the write-back, the write. -/
def State.store (s : State) (k : Access) (m : Mem) (v : Word) : Res Unit := memWrite k (s.memAddr m) v (s.memUpdate m)

/-! ### Parallel shapes (45 R440) -/

/-- R0–R7 as an integer register. -/
def regOf (n : PReg) : Reg := .r (fregOf n)

/-- An operation with a store: src2 is read, src3 stored at dst2, then `f` writes the first half's result. -/
def State.withStore (s : State) (src2 dst2 : Ind) (v : Word) (f : Word → State → State) : Res Unit :=
  (memRead .plain (s.indAddr src2 implied) (s.indUpdate2 dst2 src2)).bind fun x t =>
    (memWrite .plain (s.indAddr dst2 implied) v t).bind fun _ u => .ok () (f x u)

/-- src3 of an integer store. -/
def State.storedInt (s : State) (n : PReg) : Word := s.get (regOf n)

/-- src3 of a floating-point store. -/
def State.storedFloat (s : State) (n : PReg) : Word := extendedToSingle (s.getF (fregOf n))

/-- op(src2) → dst1 with an integer store. -/
def State.unarySti (s : State) (o : ParStore) (op : Word → Word × Flags) : Res Unit :=
  s.withStore o.src2 o.dst2 (s.storedInt o.src3) fun x t => t.result (regOf o.dst1) (op x)

/-- op(src2) → dst1 in floating point with a floating-point store. -/
def State.unaryStf (s : State) (o : ParStore) (op : Word → Ext × Flags) : Res Unit :=
  s.withStore o.src2 o.dst2 (s.storedFloat o.src3) fun x t => t.resultF (fregOf o.dst1) (op x)

/-- op(src1, src2) → dst1 with an integer store; src1 the register, src2 the memory word. -/
def State.binarySti (s : State) (o : ParStore3) (op : Word → Word → Word × Flags) : Res Unit :=
  s.withStore o.src2 o.dst2 (s.storedInt o.src3) fun x t => t.result (regOf o.dst1) (op (s.get (regOf o.src1)) x)

/-- op(src1, src2) → dst1 in floating point with a floating-point store. -/
def State.binaryStf (s : State) (o : ParStore3) (op : Ext → Ext → Ext × Flags) : Res Unit :=
  s.withStore o.src2 o.dst2 (s.storedFloat o.src3) fun x t =>
    t.resultF (fregOf o.dst1) (op (s.getF (fregOf o.src1)) (singleToExtended x))

/-- route(P) (45 R467): the multiplier pair and the adder pair, the latter in order first − second. -/
def route {α : Type} (p : BitVec 2) (x1 x2 x3 x4 : α) : (α × α) × (α × α) :=
  if p = 0 then ((x3, x4), (x1, x2))
  else if p = 1 then ((x3, x1), (x4, x2))
  else if p = 2 then ((x1, x2), (x3, x4))
  else ((x3, x1), (x2, x4))

/-- dst1 of a multiply-add pair: R0 or R1. -/
def productReg (o : MulAdd) : FReg := if o.d1 then 1 else 0

/-- dst2 of a multiply-add pair: R2 or R3. -/
def sumReg (o : MulAdd) : FReg := if o.d2 then 3 else 2

/-- The flags of a multiply-add pair: V, UF and the latches from either result, N = Z = 0, C unchanged (45 R467). -/
def pairFlags (a b : Flags) : Flags := { v := a.v || b.v, uf := a.uf || b.uf, n := false, z := false }

/-- A floating-point multiply-add pair. -/
def State.mulAddF (s : State) (o : MulAdd) (add : Ext → Ext → Ext × Flags) : Res Unit :=
  (s.fetchInd2 o.src3 o.src4).andThen fun x t =>
    let q := route o.p (s.getF (fregOf o.src1)) (s.getF (fregOf o.src2)) (singleToExtended x.1) (singleToExtended x.2)
    let m := floatMul q.1.1 q.1.2
    let a := add q.2.1 q.2.2
    ((t.setFlags (pairFlags m.2 a.2)).putF (productReg o) m.1).putF (sumReg o) a.1

/-- An integer multiply-add pair. -/
def State.mulAddI (s : State) (o : MulAdd) (add : Word → Word → Word × Flags) : Res Unit :=
  (s.fetchInd2 o.src3 o.src4).andThen fun x t =>
    let q := route o.p (s.get (regOf o.src1)) (s.get (regOf o.src2)) x.1 x.2
    let m := mulInt s.ovm q.1.1 q.1.2
    let a := add q.2.1 q.2.2
    ((t.setFlags (pairFlags m.2 a.2)).put (.r (productReg o)) m.1).put (.r (sumReg o)) a.1

/-- Two parallel stores, src1's first, so that src2's stands where both address one word (45 R459, R460). -/
def State.storePair (s : State) (o : ParStores) (v1 v2 : Word) : Res Unit :=
  (memWrite .plain (s.indAddr o.dst1 implied) v1 (s.indUpdate2 o.dst1 o.dst2)).bind fun _ t =>
    memWrite .plain (s.indAddr o.dst2 implied) v2 t

end Sys2Proof.Machine
end

