-- ==== Sys2Proof/Machine/Arithmetic.lean ====
section
/-! DEFINITION. The two-operand arithmetic, logical, shift, conversion and byte instructions (spec 41 R260–R309). -/

namespace Sys2Proof.Machine

/-- ABSF (R260). -/
def execAbsf (dst : FReg) (src : Src FReg) (s : State) : Host.Outcome State Fault Refusal :=
  s.run fun t => t.unaryF dst (t.sourceFloat src) floatAbs

/-- ABSI (R261). -/
def execAbsi (dst : Reg) (src : Src Reg) (s : State) : Host.Outcome State Fault Refusal :=
  s.run fun t => t.unary dst (t.sourceInt src) (absInt t.ovm)

/-- ADDC (R263). -/
def execAddc (dst : Reg) (src : Src Reg) (s : State) : Host.Outcome State Fault Refusal :=
  s.run fun t => t.binary dst (t.sourceInt src) (addInt t.ovm t.carry)

/-- ADDF (R264). -/
def execAddf (dst : FReg) (src : Src FReg) (s : State) : Host.Outcome State Fault Refusal :=
  s.run fun t => t.binaryF dst (t.sourceFloat src) floatAdd

/-- ADDI (R265). -/
def execAddi (dst : Reg) (src : Src Reg) (s : State) : Host.Outcome State Fault Refusal :=
  s.run fun t => t.binary dst (t.sourceInt src) (addInt t.ovm false)

/-- AND (R266): the immediate is zero-extended. -/
def execAnd (dst : Reg) (src : Src Reg) (s : State) : Host.Outcome State Fault Refusal :=
  s.run fun t => t.binary dst (t.sourceUint src) fun d x => plainFlags (d &&& x)

/-- ANDN (R267). -/
def execAndn (dst : Reg) (src : Src Reg) (s : State) : Host.Outcome State Fault Refusal :=
  s.run fun t => t.binary dst (t.sourceUint src) fun d x => plainFlags (d &&& ~~~x)

/-- ASH (R268). -/
def execAsh (dst : Reg) (src : Src Reg) (s : State) : Host.Outcome State Fault Refusal :=
  s.run fun t => t.binary dst (t.sourceInt src) ashInt

/-- CMPF (R269): dst − src, flags only. -/
def execCmpf (dst : FReg) (src : Src FReg) (s : State) : Host.Outcome State Fault Refusal :=
  s.run fun t => (t.sourceFloat src).andThen fun x u => u.setFlags (floatSub (t.getF dst) x).2

/-- CMPI (R270): dst − src, flags only, never saturated. -/
def execCmpi (dst : Reg) (src : Src Reg) (s : State) : Host.Outcome State Fault Refusal :=
  s.run fun t => t.compare dst (t.sourceInt src) (subInt false false)

/-- FIX (R271). -/
def execFix (dst : Reg) (src : Src FReg) (s : State) : Host.Outcome State Fault Refusal :=
  s.run fun t => (t.sourceFloat src).andThen fun x u => u.result dst (fixInt x)

/-- FLOAT (R272): the source is an integer. -/
def execFloat (dst : FReg) (src : Src FReg) (s : State) : Host.Outcome State Fault Refusal :=
  s.run fun t => (t.source (fun n => (t.getF n).extractLsb' 0 32) id sext16 src).andThen fun x u => u.resultF dst (floatInt x)

/-- FRIEEE (R273). -/
def execFrieee (dst : FReg) (src : Mem) (s : State) : Host.Outcome State Fault Refusal :=
  s.run fun t => (t.fetch .plain src).andThen fun w u => u.resultF dst (fromIeee w)

/-- LBb (R290): the immediate is sign-extended first. -/
def execLb (b : BitVec 2) (dst : Reg) (src : Src Reg) (s : State) : Host.Outcome State Fault Refusal :=
  s.run fun t => t.unary dst (t.sourceInt src) fun x => plainFlags ((byteOf x b).signExtend 32)

/-- LBUb (R291): N = 0. -/
def execLbu (b : BitVec 2) (dst : Reg) (src : Src Reg) (s : State) : Host.Outcome State Fault Refusal :=
  s.run fun t => t.unary dst (t.sourceInt src) fun x => unsignedFlags ((byteOf x b).setWidth 32)

/-- LHw (R292). -/
def execLh (h : BitVec 1) (dst : Reg) (src : Src Reg) (s : State) : Host.Outcome State Fault Refusal :=
  s.run fun t => t.unary dst (t.sourceInt src) fun x => plainFlags ((halfOf x h).signExtend 32)

/-- LHUw (R293): N = 0. -/
def execLhu (h : BitVec 1) (dst : Reg) (src : Src Reg) (s : State) : Host.Outcome State Fault Refusal :=
  s.run fun t => t.unary dst (t.sourceInt src) fun x => unsignedFlags ((halfOf x h).setWidth 32)

/-- LSH (R274). -/
def execLsh (dst : Reg) (src : Src Reg) (s : State) : Host.Outcome State Fault Refusal :=
  s.run fun t => t.binary dst (t.sourceInt src) lshInt

/-- LWLct (R294). -/
def execLwl (b : BitVec 2) (dst : Reg) (src : Src Reg) (s : State) : Host.Outcome State Fault Refusal :=
  s.run fun t => t.binary dst (t.sourceInt src) fun d x => plainFlags (mergeLeft d x b)

/-- LWRct (R295). -/
def execLwr (b : BitVec 2) (dst : Reg) (src : Src Reg) (s : State) : Host.Outcome State Fault Refusal :=
  s.run fun t => t.binary dst (t.sourceInt src) fun d x => plainFlags (mergeRight d x b)

/-- MBct (R296). -/
def execMb (b : BitVec 2) (dst : Reg) (src : Src Reg) (s : State) : Host.Outcome State Fault Refusal :=
  s.run fun t => t.binary dst (t.sourceInt src) fun d x => plainFlags (mergeByte d x b)

/-- MHct (R297). -/
def execMh (h : BitVec 1) (dst : Reg) (src : Src Reg) (s : State) : Host.Outcome State Fault Refusal :=
  s.run fun t => t.binary dst (t.sourceInt src) fun d x => plainFlags (mergeHalf d x h)

/-- MPYF (R275). -/
def execMpyf (dst : FReg) (src : Src FReg) (s : State) : Host.Outcome State Fault Refusal :=
  s.run fun t => t.binaryF dst (t.sourceFloat src) floatMul

/-- MPYI (R276). -/
def execMpyi (dst : Reg) (src : Src Reg) (s : State) : Host.Outcome State Fault Refusal :=
  s.run fun t => t.binary dst (t.sourceInt src) (mulInt t.ovm)

/-- MPYSHI (R277). -/
def execMpyshi (dst : Reg) (src : Src Reg) (s : State) : Host.Outcome State Fault Refusal :=
  s.run fun t => t.binary dst (t.sourceInt src) mulHighSigned

/-- MPYUHI (R278): the immediate is zero-extended. -/
def execMpyuhi (dst : Reg) (src : Src Reg) (s : State) : Host.Outcome State Fault Refusal :=
  s.run fun t => t.binary dst (t.sourceUint src) mulHighUnsigned

/-- NEGB (R279). -/
def execNegb (dst : Reg) (src : Src Reg) (s : State) : Host.Outcome State Fault Refusal :=
  s.run fun t => t.unary dst (t.sourceInt src) (subInt t.ovm t.carry 0)

/-- NEGF (R280). -/
def execNegf (dst : FReg) (src : Src FReg) (s : State) : Host.Outcome State Fault Refusal :=
  s.run fun t => t.unaryF dst (t.sourceFloat src) floatNeg

/-- NEGI (R281). -/
def execNegi (dst : Reg) (src : Src Reg) (s : State) : Host.Outcome State Fault Refusal :=
  s.run fun t => t.unary dst (t.sourceInt src) (subInt t.ovm false 0)

/-- NORM (R282). -/
def execNorm (dst : FReg) (src : Src FReg) (s : State) : Host.Outcome State Fault Refusal :=
  s.run fun t => t.unaryF dst (t.sourceFloat src) normFloat

/-- NOT (R283). -/
def execNot (dst : Reg) (src : Src Reg) (s : State) : Host.Outcome State Fault Refusal :=
  s.run fun t => t.unary dst (t.sourceUint src) fun x => plainFlags (~~~x)

/-- OR (R284). -/
def execOr (dst : Reg) (src : Src Reg) (s : State) : Host.Outcome State Fault Refusal :=
  s.run fun t => t.binary dst (t.sourceUint src) fun d x => plainFlags (d ||| x)

/-- RCPF (R285). -/
def execRcpf (dst : FReg) (src : Src FReg) (s : State) : Host.Outcome State Fault Refusal :=
  s.run fun t => t.unaryF dst (t.sourceFloat src) reciprocal

/-- RND (R286). -/
def execRnd (dst : FReg) (src : Src FReg) (s : State) : Host.Outcome State Fault Refusal :=
  s.run fun t => t.unaryF dst (t.sourceFloat src) roundFloat

/-- ROL (R287). -/
def execRol (dst : Reg) (s : State) : Host.Outcome State Fault Refusal :=
  s.run fun t => .ok () (t.result dst (rotateLeft (t.get dst) (t.get dst).msb))

/-- ROLC (R288). -/
def execRolc (dst : Reg) (s : State) : Host.Outcome State Fault Refusal :=
  s.run fun t => .ok () (t.result dst (rotateLeft (t.get dst) t.carry))

/-- ROR (R289). -/
def execRor (dst : Reg) (s : State) : Host.Outcome State Fault Refusal :=
  s.run fun t => .ok () (t.result dst (rotateRight (t.get dst) ((t.get dst).getLsbD 0)))

/-- RORC (R298). -/
def execRorc (dst : Reg) (s : State) : Host.Outcome State Fault Refusal :=
  s.run fun t => .ok () (t.result dst (rotateRight (t.get dst) t.carry))

/-- RSQRF (R299). -/
def execRsqrf (dst : FReg) (src : Src FReg) (s : State) : Host.Outcome State Fault Refusal :=
  s.run fun t => t.unaryF dst (t.sourceFloat src) (rootReciprocal t.draws)

/-- SUBB (R300). -/
def execSubb (dst : Reg) (src : Src Reg) (s : State) : Host.Outcome State Fault Refusal :=
  s.run fun t => t.binary dst (t.sourceInt src) (subInt t.ovm t.carry)

/-- SUBC (R301): no flags. -/
def execSubc (dst : Reg) (src : Src Reg) (s : State) : Host.Outcome State Fault Refusal :=
  s.run fun t => (t.sourceInt src).andThen fun x u => u.put dst (subcStep (t.get dst) x)

/-- SUBF (R302): dst − src. -/
def execSubf (dst : FReg) (src : Src FReg) (s : State) : Host.Outcome State Fault Refusal :=
  s.run fun t => t.binaryF dst (t.sourceFloat src) floatSub

/-- SUBI (R303): dst − src. -/
def execSubi (dst : Reg) (src : Src Reg) (s : State) : Host.Outcome State Fault Refusal :=
  s.run fun t => t.binary dst (t.sourceInt src) (subInt t.ovm false)

/-- SUBRB (R304): src − dst − C. -/
def execSubrb (dst : Reg) (src : Src Reg) (s : State) : Host.Outcome State Fault Refusal :=
  s.run fun t => t.binary dst (t.sourceInt src) fun d x => subInt t.ovm t.carry x d

/-- SUBRF (R305): src − dst. -/
def execSubrf (dst : FReg) (src : Src FReg) (s : State) : Host.Outcome State Fault Refusal :=
  s.run fun t => t.binaryF dst (t.sourceFloat src) fun d x => floatSub x d

/-- SUBRI (R306): src − dst. -/
def execSubri (dst : Reg) (src : Src Reg) (s : State) : Host.Outcome State Fault Refusal :=
  s.run fun t => t.binary dst (t.sourceInt src) fun d x => subInt t.ovm false x d

/-- TOIEEE (R307). -/
def execToieee (dst : FReg) (src : Src FReg) (s : State) : Host.Outcome State Fault Refusal :=
  s.run fun t => t.unaryF dst (t.sourceFloat src) toIeee

/-- TSTB (R308): flags only. -/
def execTstb (dst : Reg) (src : Src Reg) (s : State) : Host.Outcome State Fault Refusal :=
  s.run fun t => t.compare dst (t.sourceUint src) fun d x => plainFlags (d &&& x)

/-- XOR (R309). -/
def execXor (dst : Reg) (src : Src Reg) (s : State) : Host.Outcome State Fault Refusal :=
  s.run fun t => t.binary dst (t.sourceUint src) fun d x => plainFlags (d ^^^ x)

end Sys2Proof.Machine
end

