-- ==== Sys2Proof/Machine/Control.lean ====
section
/-! DEFINITION. The program-control instructions (spec 43). Addresses count from the PC of the instruction itself; the
rules for delay slots and repeat blocks are in Sequence.lean. -/

namespace Sys2Proof.Machine

/-- The target of a branch at `pc` (R360): a register, or pc + k + displacement. -/
def State.target (s : State) (pc k : Word) : Target → Word
  | .reg r => s.get r
  | .rel d => pc + k + d.signExtend 32

/-- target24 (R360). -/
def target24 (pc k : Word) (d : BitVec 24) : Word := pc + k + d.signExtend 32

/-- The program continues at `a`. -/
def State.jump (s : State) (a : Word) : State := { s with pc := a }

/-- The decrement of DBcond (R377). -/
def State.decrement (s : State) (n : Fin 8) : State := { s with ar := s.ar.set n (s.ar[n] - 1) }

/-- The decremented register lets DBcond branch: it is not negative. -/
def State.counting (s : State) (n : Fin 8) : Bool := !(s.ar[n]).msb

/-- The repeat registers of RPTB and RPTBD (R371, R373). -/
def State.repeatBlock (s : State) (first last : Word) : State :=
  { s with rs := first, re := last, st := putBit s.st 8 true, repeatSingle := false }

/-- RE of a repeat block. -/
def State.blockEnd (s : State) (pc k : Word) : BlockEnd → Word
  | .rel d => target24 pc k d
  | .reg r => s.get r

/-- IDLE and IDLE2 enable the maskable interrupts (R395, R396). -/
def State.wait (s : State) (p : Phase) : State := { s with st := putBit s.st 13 true, phase := p }

/-- Bcond (R361). -/
def execBCond (c : Cond) (a : Target) (s : State) : Host.Outcome State Fault Refusal :=
  s.run fun t => .ok () (if t.cond c then t.jump (t.target s.pc 1 a) else t)

/-- BcondAF (R362): the slots are annulled when the condition is false. -/
def execBCondAf (c : Cond) (a : Target) (s : State) : Host.Outcome State Fault Refusal :=
  s.run fun t => .ok ()
    (if t.cond c then t.delayed (t.target s.pc 3 a) false .branch else t.delayed (s.pc + 4) true .branch)

/-- BcondAT (R363): the slots are annulled when the condition is true. -/
def execBCondAt (c : Cond) (a : Target) (s : State) : Host.Outcome State Fault Refusal :=
  s.run fun t => .ok ()
    (if t.cond c then t.delayed (t.target s.pc 3 a) true .branch else t.delayed (s.pc + 4) false .branch)

/-- BcondD (R364). -/
def execBCondD (c : Cond) (a : Target) (s : State) : Host.Outcome State Fault Refusal :=
  s.run fun t => .ok ()
    (t.delayed (if t.cond c then t.target s.pc 3 a else s.pc + 4) false .branch)

/-- BR (R365). -/
def execBr (d : BitVec 24) (s : State) : Host.Outcome State Fault Refusal :=
  s.run fun t => .ok () (t.jump (target24 s.pc 1 d))

/-- BRD (R365). -/
def execBrd (d : BitVec 24) (s : State) : Host.Outcome State Fault Refusal :=
  s.run fun t => .ok () (t.delayed (target24 s.pc 3 d) false .branch)

/-- CALL (R375). -/
def execCall (d : BitVec 24) (s : State) : Host.Outcome State Fault Refusal :=
  s.run fun t => (t.push (s.pc + 1)).andThen fun _ u => u.jump (target24 s.pc 1 d)

/-- CALLcond (R376): the push, then the jump; a register target is read behind the push, as the operation is written. -/
def execCallCond (c : Cond) (a : Target) (s : State) : Host.Outcome State Fault Refusal :=
  s.run fun t => if t.cond c then (t.push (s.pc + 1)).andThen fun _ u => u.jump (u.target s.pc 1 a) else .ok () t

/-- DBcond (R377): the condition is that of the flags, the target is read after the decrement. -/
def execDbCond (n : Fin 8) (c : Cond) (a : Target) (s : State) : Host.Outcome State Fault Refusal :=
  s.run fun t =>
    let u := t.decrement n
    .ok () (if t.cond c && u.counting n then u.jump (u.target s.pc 1 a) else u)

/-- DBcondD (R378). -/
def execDbCondD (n : Fin 8) (c : Cond) (a : Target) (s : State) : Host.Outcome State Fault Refusal :=
  s.run fun t =>
    let u := t.decrement n
    .ok () (u.delayed (if t.cond c && u.counting n then u.target s.pc 3 a else s.pc + 4) false .branch)

/-- IACK (R379): IACK# low for an external address (60 R662), a read whose word is discarded, IACK# high. -/
def execIack (m : Mem) (s : State) : Host.Outcome State Fault Refusal :=
  (s.iackFall (s.memAddr m)).run fun t => (t.fetch .plain m).andThen fun _ u => u.iackRise (t.memAddr m)

/-- IDLE (R395). -/
def execIdle (s : State) : Host.Outcome State Fault Refusal :=
  s.run fun t => .ok () (t.wait .idle)

/-- IDLE2 (R396). -/
def execIdle2 (s : State) : Host.Outcome State Fault Refusal :=
  s.run fun t => .ok () (t.wait .idle2)

/-- LAJ (R381). -/
def execLaj (d : BitVec 24) (s : State) : Host.Outcome State Fault Refusal :=
  s.run fun t => .ok () ((t.put (.r 11) (s.pc + 4)).delayed (target24 s.pc 3 d) false .branch)

/-- LAJcond (R382): a register target is read before R11 is written. -/
def execLajCond (c : Cond) (a : Target) (s : State) : Host.Outcome State Fault Refusal :=
  s.run fun t => .ok ()
    (if t.cond c then (t.put (.r 11) (s.pc + 4)).delayed (t.target s.pc 3 a) false .branch
     else t.delayed (s.pc + 4) false .branch)

/-- LATcond (R383): the status changes before the slots (92 D54). -/
def execLatCond (c : Cond) (n : BitVec 9) (s : State) : Host.Outcome State Fault Refusal :=
  s.run fun t =>
    if t.cond c then
      (memRead .plain (vectorAddress t.tvtp n) (t.saveStatus.put (.r 11) (s.pc + 4))).andThen fun v u =>
        u.delayed v false .trap
    else .ok () (t.delayed (s.pc + 4) false .trap)

/-- NOP (R384): the indirect form reads and discards a word. -/
def execNop (src : NopSrc) (s : State) : Host.Outcome State Fault Refusal :=
  s.run fun t =>
    match src with
    | .reg _ => .ok () t
    | .ind i d => (t.fetch .plain (.ind i d)).andThen fun _ u => u

/-- RETIcond (R366). -/
def execRetiCond (c : Cond) (s : State) : Host.Outcome State Fault Refusal :=
  s.run fun t =>
    if t.cond c then t.exceptionReturn.andThen fun v u => u.jump v else .ok () t

/-- RETIcondD (R366): the pop and the status change come before the slots (92 D58). -/
def execRetiCondD (c : Cond) (s : State) : Host.Outcome State Fault Refusal :=
  s.run fun t =>
    if t.cond c then t.exceptionReturn.andThen fun v u => u.delayed v false .retid
    else .ok () (t.delayed (s.pc + 4) false .retid)

/-- RETScond (R367). -/
def execRetsCond (c : Cond) (s : State) : Host.Outcome State Fault Refusal :=
  s.run fun t =>
    if t.cond c then t.pop.andThen fun v u => u.jump v else .ok () t

/-- TRAPcond (R368): the trap is taken as one shared operation. -/
def execTrapCond (c : Cond) (n : BitVec 9) (s : State) : Host.Outcome State Fault Refusal :=
  s.run fun t =>
    if t.cond c then t.trap n (s.pc + 1) else .ok () t

/-- SWI (R369): without an emulator it is as an undefined encoding (92 D63), which leaves the core stuck until reset (D41). -/
def execSwi (s : State) : Host.Outcome State Fault Refusal := .next { s with phase := .stuck }

/-- RPTB (R371). -/
def execRptb (e : BlockEnd) (s : State) : Host.Outcome State Fault Refusal :=
  s.run fun t => .ok () (t.repeatBlock (s.pc + 1) (t.blockEnd s.pc 1 e))

/-- RPTBD (R373): the three slots come before the block. -/
def execRptbd (e : BlockEnd) (s : State) : Host.Outcome State Fault Refusal :=
  s.run fun t => .ok ()
    ((t.repeatBlock (s.pc + 4) (t.blockEnd s.pc 3 e)).delayed (s.pc + 4) false .rptbd)

/-- RPTS (R372): the immediate is zero-extended; the next word is fetched once. -/
def execRpts (src : Src Reg) (s : State) : Host.Outcome State Fault Refusal :=
  s.run fun t => (t.sourceUint src).andThen fun x u =>
    { u with rc := x, rs := s.pc + 1, re := s.pc + 1, st := putBit u.st 8 true, repeatSingle := true, irHeld := false }

end Sys2Proof.Machine
end

