-- ==== Sys2Proof/Machine/Interlocked.lean ====
section
/-! DEFINITION. The interlocked instructions (spec 44 R425–R433): their plain twins, with the lock signal of the bus that
an external operand address selects. -/

namespace Sys2Proof.Machine

/-- The start of an interlocked read: the lock signal goes low, and stays low while the access waits (R425). -/
def State.lockLow (s : State) (m : Mem) : State := s.setLock (s.memAddr m) false

/-- LDFI (R427): lock low, LDF. -/
def execLdfi (dst : FReg) (m : Mem) (s : State) : Host.Outcome State Fault Refusal :=
  (s.lockLow m).run fun t => (t.fetch .plain m).andThen fun w u => u.resultF dst (copyFlags (singleToExtended w))

/-- LDII (R430): lock low, LDI by an interlocked read. -/
def execLdii (dst : Reg) (m : Mem) (s : State) : Host.Outcome State Fault Refusal :=
  (s.lockLow m).run fun t => t.unary dst (t.fetch .interlocked m) plainFlags

/-- SIGI (R431): lock low, LDI by a read marked as SIGI on the status pins (R425), lock high. -/
def execSigi (dst : Reg) (m : Mem) (s : State) : Host.Outcome State Fault Refusal :=
  (s.lockLow m).run fun t => (t.fetch .sigi m).andThen fun w u => (u.setLock (t.memAddr m) true).result dst (plainFlags w)

/-- STFI (R432): STF, lock high. -/
def execStfi (src : FReg) (m : Mem) (s : State) : Host.Outcome State Fault Refusal :=
  s.run fun t => (t.store .plain m (extendedToSingle (t.getF src))).andThen fun _ u => u.setLock (t.memAddr m) true

/-- STII (R433): STI by an interlocked write, lock high. The write is interlocked, and releases RS of the commutator, whatever
level LLOCK# has: R425 would make it a plain STI while LLOCK# = 1, R433 and 66 R562 release (DESIGN CHOICE, log 28). -/
def execStii (src : Reg) (m : Mem) (s : State) : Host.Outcome State Fault Refusal :=
  s.run fun t => (t.store .interlocked m (t.get src)).andThen fun _ u => u.setLock (t.memAddr m) true

end Sys2Proof.Machine
end

