-- ==== Sys2Proof/Machine/LoadStore.lean ====
section
/-! DEFINITION. The load, store and stack instructions (spec 40 R220–R238). -/

namespace Sys2Proof.Machine

/-- LDA (R220): no flags; the same source and destination register is not allowed (93 U34). -/
def execLda (dst : Reg) (src : Src Reg) (s : State) : Host.Outcome State Fault Refusal :=
  if src = .reg dst then .fault .ldaSameRegister
  else s.run fun t => (t.sourceInt src).andThen fun x u => u.put dst x

/-- LDE (R221): the exponent; the mantissa is cleared with the zero exponent. -/
def execLde (dst : FReg) (src : Src FReg) (s : State) : Host.Outcome State Fault Refusal :=
  s.run fun t => (t.sourceFloat src).andThen fun x u =>
    u.putF dst (x.extractLsb' 32 8 ++ if exponent x = -128 then 0 else (u.getF dst).extractLsb' 0 32)

/-- LDEP (R232). -/
def execLdep (dst : Reg) (src : XReg) (s : State) : Host.Outcome State Fault Refusal :=
  s.run fun t => .ok () (t.put dst (t.getX src))

/-- LDF (R222). -/
def execLdf (dst : FReg) (src : Src FReg) (s : State) : Host.Outcome State Fault Refusal :=
  s.run fun t => t.unaryF dst (t.sourceFloat src) copyFlags

/-- LDFcond (R223): the operand is read whatever the condition; no flags. -/
def execLdfCond (c : Cond) (dst : FReg) (src : Src FReg) (s : State) : Host.Outcome State Fault Refusal :=
  s.run fun t => (t.sourceFloat src).andThen fun x u => if t.cond c then u.putF dst x else u

/-- LDHI (R224). -/
def execLdhi (dst : Reg) (v : BitVec 16) (s : State) : Host.Outcome State Fault Refusal :=
  s.run fun t => .ok () (t.put dst (v ++ (0 : BitVec 16)))

/-- LDI (R225). -/
def execLdi (dst : Reg) (src : Src Reg) (s : State) : Host.Outcome State Fault Refusal :=
  s.run fun t => t.unary dst (t.sourceInt src) plainFlags

/-- LDIcond (R226): the operand is read whatever the condition; no flags. -/
def execLdiCond (c : Cond) (dst : Reg) (src : Src Reg) (s : State) : Host.Outcome State Fault Refusal :=
  s.run fun t => (t.sourceInt src).andThen fun x u => if t.cond c then u.put dst x else u

/-- The 32 mantissa bits LDM loads (R227). -/
def State.mantissaSource (s : State) (src : Src FReg) : Res Word :=
  s.source (fun n => (s.getF n).extractLsb' 0 32) id (fun v => v.extractLsb' 0 12 ++ (0 : BitVec 20)) src

/-- LDM (R227): the exponent is kept. -/
def execLdm (dst : FReg) (src : Src FReg) (s : State) : Host.Outcome State Fault Refusal :=
  s.run fun t => (t.mantissaSource src).andThen fun x u => u.putF dst (withLow (u.getF dst) x)

/-- LDP (R229): the word of LDI with an immediate and dst = DP, flags as LDI. The instruction before it has seen the new DP already,
as with LDPK (`State.newest`, 70 R729). -/
def execLdp (v : BitVec 16) (s : State) : Host.Outcome State Fault Refusal :=
  s.run fun t => t.unary .dp (.ok (sext16 v) t) plainFlags

/-- LDPE (R233). -/
def execLdpe (dst : XReg) (src : Reg) (s : State) : Host.Outcome State Fault Refusal :=
  s.run fun t => .ok () (t.putX dst (t.get src))

/-- LDPK (R228): no flags. The instruction before it has seen the new DP already (`State.newest`). Where that instruction
writes DP, the value of LDPK stands: R228's early write would let the other one stand, R721 holds the decode of LDPK back
(DESIGN CHOICE, log 16). -/
def execLdpk (v : BitVec 16) (s : State) : Host.Outcome State Fault Refusal :=
  s.run fun t => .ok () (t.put .dp (zext16 v))

/-- POP (R230): the loaded value wins over the decrement for dst = SP. -/
def execPop (dst : Reg) (s : State) : Host.Outcome State Fault Refusal :=
  s.run fun t => t.unary dst t.pop plainFlags

/-- POPF (R231). -/
def execPopf (dst : FReg) (s : State) : Host.Outcome State Fault Refusal :=
  s.run fun t => t.pop.andThen fun w u => u.resultF dst (copyFlags (singleToExtended w))

/-- PUSH (R234): PUSH SP stores the old SP (92 D62). -/
def execPush (src : Reg) (s : State) : Host.Outcome State Fault Refusal :=
  s.run fun t => t.push (t.get src)

/-- PUSHF (R235). -/
def execPushf (src : FReg) (s : State) : Host.Outcome State Fault Refusal :=
  s.run fun t => t.push (extendedToSingle (t.getF src))

/-- STF (R236). -/
def execStf (src : FReg) (dst : Mem) (s : State) : Host.Outcome State Fault Refusal :=
  s.run fun t => t.store .plain dst (extendedToSingle (t.getF src))

/-- STI (R237). -/
def execSti (src : Reg) (dst : Mem) (s : State) : Host.Outcome State Fault Refusal :=
  s.run fun t => t.store .plain dst (t.get src)

/-- STIK (R238). -/
def execStik (k : BitVec 5) (dst : Mem) (s : State) : Host.Outcome State Fault Refusal :=
  s.run fun t => t.store .plain dst (k.signExtend 32)

end Sys2Proof.Machine
end

