-- ==== Sys2Proof/Machine/Parallel.lean ====
section
/-! DEFINITION. The parallel instructions (spec 45 R440–R470). -/

namespace Sys2Proof.Machine

/-- ABSF||STF (R441). -/
def execAbsfStf (o : ParStore) (s : State) : Host.Outcome State Fault Refusal :=
  s.run fun t => t.unaryStf o fun w => floatAbs (singleToExtended w)

/-- ABSI||STI (R442). -/
def execAbsiSti (o : ParStore) (s : State) : Host.Outcome State Fault Refusal :=
  s.run fun t => t.unarySti o (absInt t.ovm)

/-- ADDF3||STF (R443). -/
def execAddf3Stf (o : ParStore3) (s : State) : Host.Outcome State Fault Refusal :=
  s.run fun t => t.binaryStf o floatAdd

/-- ADDI3||STI (R444). -/
def execAddi3Sti (o : ParStore3) (s : State) : Host.Outcome State Fault Refusal :=
  s.run fun t => t.binarySti o (addInt t.ovm false)

/-- AND3||STI (R445). -/
def execAnd3Sti (o : ParStore3) (s : State) : Host.Outcome State Fault Refusal :=
  s.run fun t => t.binarySti o fun a b => plainFlags (a &&& b)

/-- ASH3||STI (R446): the count is the register, the memory word is shifted. -/
def execAsh3Sti (o : ParStore3) (s : State) : Host.Outcome State Fault Refusal :=
  s.run fun t => t.binarySti o fun n w => ashInt w n

/-- FIX||STI (R447). -/
def execFixSti (o : ParStore) (s : State) : Host.Outcome State Fault Refusal :=
  s.run fun t => t.unarySti o fun w => fixInt (singleToExtended w)

/-- FLOAT||STF (R448). -/
def execFloatStf (o : ParStore) (s : State) : Host.Outcome State Fault Refusal :=
  s.run fun t => t.unaryStf o floatInt

/-- FRIEEE||STF (R449). -/
def execFrieeeStf (o : ParStore) (s : State) : Host.Outcome State Fault Refusal :=
  s.run fun t => t.unaryStf o fromIeee

/-- LDF||LDF (R465): the load into dst2 stands where both name one register; no flags. -/
def execLdfLdf (o : ParLoads) (s : State) : Host.Outcome State Fault Refusal :=
  s.run fun t => (t.fetchInd2 o.src1 o.src2).andThen fun x u =>
    (u.putF (fregOf o.dst1) (singleToExtended x.1)).putF (fregOf o.dst2) (singleToExtended x.2)

/-- LDF||STF (R450): no flags. -/
def execLdfStf (o : ParStore) (s : State) : Host.Outcome State Fault Refusal :=
  s.run fun t => t.withStore o.src2 o.dst2 (t.storedFloat o.src3) fun x u => u.putF (fregOf o.dst1) (singleToExtended x)

/-- LDI||LDI (R466): as LDF||LDF. -/
def execLdiLdi (o : ParLoads) (s : State) : Host.Outcome State Fault Refusal :=
  s.run fun t => (t.fetchInd2 o.src1 o.src2).andThen fun x u => (u.put (regOf o.dst1) x.1).put (regOf o.dst2) x.2

/-- LDI||STI (R451): no flags. -/
def execLdiSti (o : ParStore) (s : State) : Host.Outcome State Fault Refusal :=
  s.run fun t => t.withStore o.src2 o.dst2 (t.storedInt o.src3) fun x u => u.put (regOf o.dst1) x

/-- LSH3||STI (R452): the count is the register. -/
def execLsh3Sti (o : ParStore3) (s : State) : Host.Outcome State Fault Refusal :=
  s.run fun t => t.binarySti o fun n w => lshInt w n

/-- MPYF3||ADDF3 (R467). -/
def execMpyf3Addf3 (o : MulAdd) (s : State) : Host.Outcome State Fault Refusal :=
  s.run fun t => t.mulAddF o floatAdd

/-- MPYF3||STF (R453). -/
def execMpyf3Stf (o : ParStore3) (s : State) : Host.Outcome State Fault Refusal :=
  s.run fun t => t.binaryStf o floatMul

/-- MPYF3||SUBF3 (R468): first − second. -/
def execMpyf3Subf3 (o : MulAdd) (s : State) : Host.Outcome State Fault Refusal :=
  s.run fun t => t.mulAddF o floatSub

/-- MPYI3||ADDI3 (R469). -/
def execMpyi3Addi3 (o : MulAdd) (s : State) : Host.Outcome State Fault Refusal :=
  s.run fun t => t.mulAddI o (addInt t.ovm false)

/-- MPYI3||STI (R454). -/
def execMpyi3Sti (o : ParStore3) (s : State) : Host.Outcome State Fault Refusal :=
  s.run fun t => t.binarySti o (mulInt t.ovm)

/-- MPYI3||SUBI3 (R470): first − second. -/
def execMpyi3Subi3 (o : MulAdd) (s : State) : Host.Outcome State Fault Refusal :=
  s.run fun t => t.mulAddI o (subInt t.ovm false)

/-- NEGF||STF (R455). -/
def execNegfStf (o : ParStore) (s : State) : Host.Outcome State Fault Refusal :=
  s.run fun t => t.unaryStf o fun w => floatNeg (singleToExtended w)

/-- NEGI||STI (R456). -/
def execNegiSti (o : ParStore) (s : State) : Host.Outcome State Fault Refusal :=
  s.run fun t => t.unarySti o (subInt t.ovm false 0)

/-- NOT||STI (R457). -/
def execNotSti (o : ParStore) (s : State) : Host.Outcome State Fault Refusal :=
  s.run fun t => t.unarySti o fun w => plainFlags (~~~w)

/-- OR3||STI (R458). -/
def execOr3Sti (o : ParStore3) (s : State) : Host.Outcome State Fault Refusal :=
  s.run fun t => t.binarySti o fun a b => plainFlags (a ||| b)

/-- STF||STF (R459). -/
def execStfStf (o : ParStores) (s : State) : Host.Outcome State Fault Refusal :=
  s.run fun t => t.storePair o (t.storedFloat o.src1) (t.storedFloat o.src2)

/-- STI||STI (R460). -/
def execStiSti (o : ParStores) (s : State) : Host.Outcome State Fault Refusal :=
  s.run fun t => t.storePair o (t.storedInt o.src1) (t.storedInt o.src2)

/-- SUBF3||STF (R461): src2 − src1, memory minus register. -/
def execSubf3Stf (o : ParStore3) (s : State) : Host.Outcome State Fault Refusal :=
  s.run fun t => t.binaryStf o fun r m => floatSub m r

/-- SUBI3||STI (R462): src2 − src1, memory minus register. -/
def execSubi3Sti (o : ParStore3) (s : State) : Host.Outcome State Fault Refusal :=
  s.run fun t => t.binarySti o fun r m => subInt t.ovm false m r

/-- TOIEEE||STF (R463). -/
def execToieeeStf (o : ParStore) (s : State) : Host.Outcome State Fault Refusal :=
  s.run fun t => t.unaryStf o fun w => toIeee (singleToExtended w)

/-- XOR3||STI (R464). -/
def execXor3Sti (o : ParStore3) (s : State) : Host.Outcome State Fault Refusal :=
  s.run fun t => t.binarySti o fun a b => plainFlags (a ^^^ b)

end Sys2Proof.Machine
end

