-- ==== Sys2Proof/Machine/ThreeOperand.lean ====
section
/-! DEFINITION. The three-operand instructions (spec 42 R331–R349). -/

namespace Sys2Proof.Machine

/-- ADDC3 (R331). -/
def execAddc3 (dst : Reg) (o : Tri Reg) (s : State) : Host.Outcome State Fault Refusal :=
  s.run fun t => t.ternary dst (t.operandsInt o) (addInt t.ovm t.carry)

/-- ADDF3 (R332). -/
def execAddf3 (dst : FReg) (o : Tri FReg) (s : State) : Host.Outcome State Fault Refusal :=
  s.run fun t => t.ternaryF dst (t.operandsFloat o) floatAdd

/-- ADDI3 (R333). -/
def execAddi3 (dst : Reg) (o : Tri Reg) (s : State) : Host.Outcome State Fault Refusal :=
  s.run fun t => t.ternary dst (t.operandsInt o) (addInt t.ovm false)

/-- AND3 (R334). -/
def execAnd3 (dst : Reg) (o : Tri Reg) (s : State) : Host.Outcome State Fault Refusal :=
  s.run fun t => t.ternary dst (t.operandsInt o) fun a b => plainFlags (a &&& b)

/-- ANDN3 (R335). -/
def execAndn3 (dst : Reg) (o : Tri Reg) (s : State) : Host.Outcome State Fault Refusal :=
  s.run fun t => t.ternary dst (t.operandsInt o) fun a b => plainFlags (a &&& ~~~b)

/-- ASH3 (R336): src1 is shifted, src2 is the count. -/
def execAsh3 (dst : Reg) (o : Tri Reg) (s : State) : Host.Outcome State Fault Refusal :=
  s.run fun t => t.ternary dst (t.operandsInt o) ashInt

/-- CMPF3 (R337): src1 − src2, flags only. -/
def execCmpf3 (o : Tri FReg) (s : State) : Host.Outcome State Fault Refusal :=
  s.run fun t => (t.operandsFloat o).andThen fun x u => u.setFlags (floatSub x.1 x.2).2

/-- CMPI3 (R338): src1 − src2, flags only. -/
def execCmpi3 (o : Tri Reg) (s : State) : Host.Outcome State Fault Refusal :=
  s.run fun t => (t.operandsInt o).andThen fun x u => u.setFlags (subInt false false x.1 x.2).2

/-- LSH3 (R339): src1 is shifted, src2 is the count. -/
def execLsh3 (dst : Reg) (o : Tri Reg) (s : State) : Host.Outcome State Fault Refusal :=
  s.run fun t => t.ternary dst (t.operandsInt o) lshInt

/-- MPYF3 (R340). -/
def execMpyf3 (dst : FReg) (o : Tri FReg) (s : State) : Host.Outcome State Fault Refusal :=
  s.run fun t => t.ternaryF dst (t.operandsFloat o) floatMul

/-- MPYI3 (R341). -/
def execMpyi3 (dst : Reg) (o : Tri Reg) (s : State) : Host.Outcome State Fault Refusal :=
  s.run fun t => t.ternary dst (t.operandsInt o) (mulInt t.ovm)

/-- MPYSHI3 (R342). -/
def execMpyshi3 (dst : Reg) (o : Tri Reg) (s : State) : Host.Outcome State Fault Refusal :=
  s.run fun t => t.ternary dst (t.operandsInt o) mulHighSigned

/-- MPYUHI3 (R343): the 8-bit immediate is sign-extended, then read unsigned. -/
def execMpyuhi3 (dst : Reg) (o : Tri Reg) (s : State) : Host.Outcome State Fault Refusal :=
  s.run fun t => t.ternary dst (t.operandsInt o) mulHighUnsigned

/-- OR3 (R344). -/
def execOr3 (dst : Reg) (o : Tri Reg) (s : State) : Host.Outcome State Fault Refusal :=
  s.run fun t => t.ternary dst (t.operandsInt o) fun a b => plainFlags (a ||| b)

/-- SUBB3 (R345): src1 − src2 − C. -/
def execSubb3 (dst : Reg) (o : Tri Reg) (s : State) : Host.Outcome State Fault Refusal :=
  s.run fun t => t.ternary dst (t.operandsInt o) (subInt t.ovm t.carry)

/-- SUBF3 (R346): src1 − src2. -/
def execSubf3 (dst : FReg) (o : Tri FReg) (s : State) : Host.Outcome State Fault Refusal :=
  s.run fun t => t.ternaryF dst (t.operandsFloat o) floatSub

/-- SUBI3 (R347): src1 − src2. -/
def execSubi3 (dst : Reg) (o : Tri Reg) (s : State) : Host.Outcome State Fault Refusal :=
  s.run fun t => t.ternary dst (t.operandsInt o) (subInt t.ovm false)

/-- TSTB3 (R348): flags only. -/
def execTstb3 (o : Tri Reg) (s : State) : Host.Outcome State Fault Refusal :=
  s.run fun t => (t.operandsInt o).andThen fun x u => u.setFlags (plainFlags (x.1 &&& x.2)).2

/-- XOR3 (R349). -/
def execXor3 (dst : Reg) (o : Tri Reg) (s : State) : Host.Outcome State Fault Refusal :=
  s.run fun t => t.ternary dst (t.operandsInt o) fun a b => plainFlags (a ^^^ b)

end Sys2Proof.Machine
end

