-- ==== Sys2Proof/Machine/Dispatch.lean ====
section
/-! DEFINITION. The dispatch of an instruction to its meaning, one arm per constructor. -/

namespace Sys2Proof.Machine

def exec (i : Instr) (s : State) : Host.Outcome State Fault Refusal :=
  match i with
  | .lda dst src => Sys2Proof.Machine.execLda dst src s
  | .lde dst src => Sys2Proof.Machine.execLde dst src s
  | .ldep dst src => Sys2Proof.Machine.execLdep dst src s
  | .ldf dst src => Sys2Proof.Machine.execLdf dst src s
  | .ldfCond c dst src => Sys2Proof.Machine.execLdfCond c dst src s
  | .ldhi dst v => Sys2Proof.Machine.execLdhi dst v s
  | .ldi dst src => Sys2Proof.Machine.execLdi dst src s
  | .ldiCond c dst src => Sys2Proof.Machine.execLdiCond c dst src s
  | .ldm dst src => Sys2Proof.Machine.execLdm dst src s
  | .ldp v => Sys2Proof.Machine.execLdp v s
  | .ldpe dst src => Sys2Proof.Machine.execLdpe dst src s
  | .ldpk v => Sys2Proof.Machine.execLdpk v s
  | .pop dst => Sys2Proof.Machine.execPop dst s
  | .popf dst => Sys2Proof.Machine.execPopf dst s
  | .push src => Sys2Proof.Machine.execPush src s
  | .pushf src => Sys2Proof.Machine.execPushf src s
  | .stf src dst => Sys2Proof.Machine.execStf src dst s
  | .sti src dst => Sys2Proof.Machine.execSti src dst s
  | .stik k dst => Sys2Proof.Machine.execStik k dst s
  | .absf dst src => Sys2Proof.Machine.execAbsf dst src s
  | .absi dst src => Sys2Proof.Machine.execAbsi dst src s
  | .addc dst src => Sys2Proof.Machine.execAddc dst src s
  | .addf dst src => Sys2Proof.Machine.execAddf dst src s
  | .addi dst src => Sys2Proof.Machine.execAddi dst src s
  | .and dst src => Sys2Proof.Machine.execAnd dst src s
  | .andn dst src => Sys2Proof.Machine.execAndn dst src s
  | .ash dst src => Sys2Proof.Machine.execAsh dst src s
  | .cmpf dst src => Sys2Proof.Machine.execCmpf dst src s
  | .cmpi dst src => Sys2Proof.Machine.execCmpi dst src s
  | .fix dst src => Sys2Proof.Machine.execFix dst src s
  | .float dst src => Sys2Proof.Machine.execFloat dst src s
  | .frieee dst src => Sys2Proof.Machine.execFrieee dst src s
  | .lb b dst src => Sys2Proof.Machine.execLb b dst src s
  | .lbu b dst src => Sys2Proof.Machine.execLbu b dst src s
  | .lh h dst src => Sys2Proof.Machine.execLh h dst src s
  | .lhu h dst src => Sys2Proof.Machine.execLhu h dst src s
  | .lsh dst src => Sys2Proof.Machine.execLsh dst src s
  | .lwl b dst src => Sys2Proof.Machine.execLwl b dst src s
  | .lwr b dst src => Sys2Proof.Machine.execLwr b dst src s
  | .mb b dst src => Sys2Proof.Machine.execMb b dst src s
  | .mh h dst src => Sys2Proof.Machine.execMh h dst src s
  | .mpyf dst src => Sys2Proof.Machine.execMpyf dst src s
  | .mpyi dst src => Sys2Proof.Machine.execMpyi dst src s
  | .mpyshi dst src => Sys2Proof.Machine.execMpyshi dst src s
  | .mpyuhi dst src => Sys2Proof.Machine.execMpyuhi dst src s
  | .negb dst src => Sys2Proof.Machine.execNegb dst src s
  | .negf dst src => Sys2Proof.Machine.execNegf dst src s
  | .negi dst src => Sys2Proof.Machine.execNegi dst src s
  | .norm dst src => Sys2Proof.Machine.execNorm dst src s
  | .not dst src => Sys2Proof.Machine.execNot dst src s
  | .or dst src => Sys2Proof.Machine.execOr dst src s
  | .rcpf dst src => Sys2Proof.Machine.execRcpf dst src s
  | .rnd dst src => Sys2Proof.Machine.execRnd dst src s
  | .rol dst => Sys2Proof.Machine.execRol dst s
  | .rolc dst => Sys2Proof.Machine.execRolc dst s
  | .ror dst => Sys2Proof.Machine.execRor dst s
  | .rorc dst => Sys2Proof.Machine.execRorc dst s
  | .rsqrf dst src => Sys2Proof.Machine.execRsqrf dst src s
  | .subb dst src => Sys2Proof.Machine.execSubb dst src s
  | .subc dst src => Sys2Proof.Machine.execSubc dst src s
  | .subf dst src => Sys2Proof.Machine.execSubf dst src s
  | .subi dst src => Sys2Proof.Machine.execSubi dst src s
  | .subrb dst src => Sys2Proof.Machine.execSubrb dst src s
  | .subrf dst src => Sys2Proof.Machine.execSubrf dst src s
  | .subri dst src => Sys2Proof.Machine.execSubri dst src s
  | .toieee dst src => Sys2Proof.Machine.execToieee dst src s
  | .tstb dst src => Sys2Proof.Machine.execTstb dst src s
  | .xor dst src => Sys2Proof.Machine.execXor dst src s
  | .addc3 dst t => Sys2Proof.Machine.execAddc3 dst t s
  | .addf3 dst t => Sys2Proof.Machine.execAddf3 dst t s
  | .addi3 dst t => Sys2Proof.Machine.execAddi3 dst t s
  | .and3 dst t => Sys2Proof.Machine.execAnd3 dst t s
  | .andn3 dst t => Sys2Proof.Machine.execAndn3 dst t s
  | .ash3 dst t => Sys2Proof.Machine.execAsh3 dst t s
  | .cmpf3 t => Sys2Proof.Machine.execCmpf3 t s
  | .cmpi3 t => Sys2Proof.Machine.execCmpi3 t s
  | .lsh3 dst t => Sys2Proof.Machine.execLsh3 dst t s
  | .mpyf3 dst t => Sys2Proof.Machine.execMpyf3 dst t s
  | .mpyi3 dst t => Sys2Proof.Machine.execMpyi3 dst t s
  | .mpyshi3 dst t => Sys2Proof.Machine.execMpyshi3 dst t s
  | .mpyuhi3 dst t => Sys2Proof.Machine.execMpyuhi3 dst t s
  | .or3 dst t => Sys2Proof.Machine.execOr3 dst t s
  | .subb3 dst t => Sys2Proof.Machine.execSubb3 dst t s
  | .subf3 dst t => Sys2Proof.Machine.execSubf3 dst t s
  | .subi3 dst t => Sys2Proof.Machine.execSubi3 dst t s
  | .tstb3 t => Sys2Proof.Machine.execTstb3 t s
  | .xor3 dst t => Sys2Proof.Machine.execXor3 dst t s
  | .bCond c t => Sys2Proof.Machine.execBCond c t s
  | .bCondAf c t => Sys2Proof.Machine.execBCondAf c t s
  | .bCondAt c t => Sys2Proof.Machine.execBCondAt c t s
  | .bCondD c t => Sys2Proof.Machine.execBCondD c t s
  | .br d => Sys2Proof.Machine.execBr d s
  | .brd d => Sys2Proof.Machine.execBrd d s
  | .call d => Sys2Proof.Machine.execCall d s
  | .callCond c t => Sys2Proof.Machine.execCallCond c t s
  | .dbCond n c t => Sys2Proof.Machine.execDbCond n c t s
  | .dbCondD n c t => Sys2Proof.Machine.execDbCondD n c t s
  | .iack m => Sys2Proof.Machine.execIack m s
  | .idle => Sys2Proof.Machine.execIdle s
  | .idle2 => Sys2Proof.Machine.execIdle2 s
  | .laj d => Sys2Proof.Machine.execLaj d s
  | .lajCond c t => Sys2Proof.Machine.execLajCond c t s
  | .latCond c n => Sys2Proof.Machine.execLatCond c n s
  | .nop src => Sys2Proof.Machine.execNop src s
  | .retiCond c => Sys2Proof.Machine.execRetiCond c s
  | .retiCondD c => Sys2Proof.Machine.execRetiCondD c s
  | .retsCond c => Sys2Proof.Machine.execRetsCond c s
  | .trapCond c n => Sys2Proof.Machine.execTrapCond c n s
  | .swi => Sys2Proof.Machine.execSwi s
  | .rptb e => Sys2Proof.Machine.execRptb e s
  | .rptbd e => Sys2Proof.Machine.execRptbd e s
  | .rpts src => Sys2Proof.Machine.execRpts src s
  | .ldfi dst m => Sys2Proof.Machine.execLdfi dst m s
  | .ldii dst m => Sys2Proof.Machine.execLdii dst m s
  | .sigi dst m => Sys2Proof.Machine.execSigi dst m s
  | .stfi src m => Sys2Proof.Machine.execStfi src m s
  | .stii src m => Sys2Proof.Machine.execStii src m s
  | .absfStf o => Sys2Proof.Machine.execAbsfStf o s
  | .absiSti o => Sys2Proof.Machine.execAbsiSti o s
  | .addf3Stf o => Sys2Proof.Machine.execAddf3Stf o s
  | .addi3Sti o => Sys2Proof.Machine.execAddi3Sti o s
  | .and3Sti o => Sys2Proof.Machine.execAnd3Sti o s
  | .ash3Sti o => Sys2Proof.Machine.execAsh3Sti o s
  | .fixSti o => Sys2Proof.Machine.execFixSti o s
  | .floatStf o => Sys2Proof.Machine.execFloatStf o s
  | .frieeeStf o => Sys2Proof.Machine.execFrieeeStf o s
  | .ldfLdf o => Sys2Proof.Machine.execLdfLdf o s
  | .ldfStf o => Sys2Proof.Machine.execLdfStf o s
  | .ldiLdi o => Sys2Proof.Machine.execLdiLdi o s
  | .ldiSti o => Sys2Proof.Machine.execLdiSti o s
  | .lsh3Sti o => Sys2Proof.Machine.execLsh3Sti o s
  | .mpyf3Addf3 o => Sys2Proof.Machine.execMpyf3Addf3 o s
  | .mpyf3Stf o => Sys2Proof.Machine.execMpyf3Stf o s
  | .mpyf3Subf3 o => Sys2Proof.Machine.execMpyf3Subf3 o s
  | .mpyi3Addi3 o => Sys2Proof.Machine.execMpyi3Addi3 o s
  | .mpyi3Sti o => Sys2Proof.Machine.execMpyi3Sti o s
  | .mpyi3Subi3 o => Sys2Proof.Machine.execMpyi3Subi3 o s
  | .negfStf o => Sys2Proof.Machine.execNegfStf o s
  | .negiSti o => Sys2Proof.Machine.execNegiSti o s
  | .notSti o => Sys2Proof.Machine.execNotSti o s
  | .or3Sti o => Sys2Proof.Machine.execOr3Sti o s
  | .stfStf o => Sys2Proof.Machine.execStfStf o s
  | .stiSti o => Sys2Proof.Machine.execStiSti o s
  | .subf3Stf o => Sys2Proof.Machine.execSubf3Stf o s
  | .subi3Sti o => Sys2Proof.Machine.execSubi3Sti o s
  | .toieeeStf o => Sys2Proof.Machine.execToieeeStf o s
  | .xor3Sti o => Sys2Proof.Machine.execXor3Sti o s

end Sys2Proof.Machine
end

