-- ==== Sys2Proof/Machine/Interrupts.lean ====
section
/-! DEFINITION. The interrupt controller (spec 60): sampling of pins and pulses, candidates, forwarding to the DMA. Taking
an interrupt is `State.interrupt` of Ops.lean. -/

namespace Sys2Proof.Machine

/-- The four IIOF levels. -/
def State.iiofLevels (s : State) : BitVec 4 :=
  BitVec.ofBool (s.iiofLevel 3) ++ BitVec.ofBool (s.iiofLevel 2) ++ BitVec.ofBool (s.iiofLevel 1)
    ++ BitVec.ofBool (s.iiofLevel 0)

/-- FLAGx after a look at the pins: set by a falling edge in edge mode (60 R657). -/
def State.edge (s : State) (iif : Word) (x : Fin 4) : Word :=
  if s.iiofFunc x && !s.iiofType x && s.iiofLast.getLsbD x.val && !s.iiofLevel x then putBit iif (4 * x.val + 2) true
  else iif

/-- The level of port condition `j` of port `k` (65 R512). -/
def Port.condition (p : Port) (j : Nat) : Bool :=
  match j with | 0 => p.icFull | 1 => p.icRdy | 2 => p.ocRdy | _ => p.ocEmpty

/-- The flag of interrupt `v`, or the level of a port (60 R651). -/
def State.flagged (s : State) (v : Nat) : Bool :=
  if v = 1 then s.iif.getLsbD 16
  else if v = 2 then s.iif.getLsbD 24
  else if 3 ≤ v ∧ v ≤ 6 then s.iiofFunc (Fin.ofNat 4 (v - 3)) && s.iiofFlag (Fin.ofNat 4 (v - 3))
  else if 0x0D ≤ v ∧ v ≤ 0x24 then (s.dev.ports[Fin.ofNat 6 ((v - 0x0D) / 4)]).condition ((v - 0x0D) % 4)
  else if 0x25 ≤ v ∧ v ≤ 0x2B then s.iif.getLsbD (v - 0x25 + 25)
  else false

/-- Interrupt `v` is pending: flagged, or taken by the DMA in a step in which the CPU could take it too (60 R659). -/
def State.pending (s : State) (v : Nat) : Bool := s.flagged v || (flagBit v).any fun b => s.claimed.getLsbD b

/-- Interrupt `v` is enabled (60 R651): NMI always, the others under GIE and their own bit. -/
def State.enabled (s : State) (v : Nat) : Bool :=
  if v = 1 then true
  else s.gie &&
    (if v = 2 then s.iie.getLsbD 0
     else if 3 ≤ v ∧ v ≤ 6 then s.iif.getLsbD (4 * (v - 3) + 3)
     else if 0x0D ≤ v ∧ v ≤ 0x24 then s.iie.getLsbD (v - 12)
     else s.iie.getLsbD (v - 0x25 + 25))

/-- The vectors that exist, highest priority first (60 R655). -/
def vectors : List Nat := (List.range 6).map (· + 1) ++ (List.range 31).map (· + 0x0D)

/-- The external interrupts, which alone end IDLE2 (43 R396). -/
def externalVectors : List Nat := [1, 3, 4, 5, 6]

/-- The candidate of highest priority among some vectors (60 R652). -/
def State.candidate (s : State) (vs : List Nat) : Option Nat := vs.find? fun v => s.pending v && s.enabled v

/-- An interrupt point exists (60 R654): between two instructions, outside delay slots, RPTS and a stalled access. -/
def State.atPoint (s : State) : Bool :=
  s.delay.isNone && s.waiting.isNone && !(s.repeatMode && s.repeatSingle)

/-- The core is at an interrupt point now (60 R654, R663); an entry out of IDLE that waits for an access is none. -/
def State.listening (s : State) : Bool :=
  match s.phase with
  | .running => s.atPoint
  | .idle => s.entering.isNone
  | _ => false

/-- The interrupt the core takes now, if any (60 R652, R654, R663). -/
def State.taken (s : State) : Option Nat := if s.listening then s.candidate vectors else none

/-! ### Looking at the inputs (60 R653, R657, R660; 43 R396) -/

/-- A falling edge of NMI#. -/
def State.nmiFalls (s : State) : Bool := s.nmiLast && !s.pins.nmi

/-- An external request is there now: a falling edge of NMI# or of an edge pin, or a low level pin. -/
def State.external (s : State) : Bool :=
  s.nmiFalls || ([0, 1, 2, 3] : List (Fin 4)).any fun x =>
    s.iiofFunc x && !s.iiofLevel x && (s.iiofType x || s.iiofLast.getLsbD x.val)

/-- The NMI edge forces the peripheral bus ready (10 R33): a falling edge under code 10 of ST bits 19–18. -/
def State.nmiGrants (s : State) : Bool := s.nmiFalls && bits s.st 18 2 == 2

/-- A DMA access to a FIFO that holds the peripheral bus, ended by the bus grant. -/
def DmaWait.grant (h : DmaWait) : DmaWait := if h.why = .fifo then { h with why := .granted } else h

/-- The bus grant goes to a CPU access that waits on a FIFO, or behind such an access of the DMA, so that the CPU can take the
NMI (65 R513; that it serves the second too is a DESIGN CHOICE, log 13). -/
def State.grantable (s : State) : Bool := s.waiting == some .fifo || s.waiting == some .peripheral

/-- The controller looks at its inputs: edges, pulses, the NMI edge with its bus grant, which ends the stalled access of the CPU
and of the DMA (10 R33, 65 R513). An instruction keeps its grant while it waits for another of its accesses (log 13). What the
last step showed outside is forgotten. -/
def State.look (s : State) : State :=
  let iif := s.edge (s.edge (s.edge (s.edge s.iif 0) 1) 2) 3 ||| s.dev.pulses
  { s with
    iif := if s.nmiFalls then putBit iif 16 true else iif
    dev := { s.dev with pulses := 0
                        busGrant := s.waiting.isSome && (s.dev.busGrant || (s.nmiGrants && s.grantable)) }
    dmaHeld := if s.nmiGrants then s.dmaHeld.map DmaWait.grant else s.dmaHeld
    nmiLast := s.pins.nmi, iiofLast := s.iiofLevels
    levelAck := s.ackPending, ackPending := 0, levelRaise := s.raisePending, raisePending := 0, outputs := [] }

/-- The controller looks at its inputs; any external request ends IDLE2, whose clocks start again. The core then waits as in
IDLE: it goes on only where the request is enabled (43 R396, 60 R663; log 20). -/
def State.sample (s : State) : State :=
  if s.phase = .idle2 ∧ (s.external || (s.look.candidate externalVectors).isSome) = true then { s.look with phase := .idle }
  else s.look

/-! ### Forwarding to the DMA (60 R659, 65 R548) -/

/-- A DMA event of channel `c` is present. -/
def State.dmaRequest (s : State) (c : Fin 6) (write : Bool) : DmaEvent → Bool
  | .none => false
  | .port => if write then (s.dev.ports[c]).ocRdy else (s.dev.ports[c]).icRdy
  | .iiof x => s.iiofFunc x && s.iiofFlag x
  | .timer n => s.iif.getLsbD (timerFlag n)

/-- Channel `c` with the events its DIE fields select latched. -/
def State.dmaLatch (s : State) (c : Fin 6) : DmaChannel :=
  let ch := s.dev.dma[c]
  { ch with readEvent := ch.readEvent.latch (ch.latches false && s.dmaRequest c false (dieEvent s.die c false))
            writeEvent := ch.writeEvent.latch (ch.latches true && s.dmaRequest c true (dieEvent s.die c true)) }

/-- Some channel latches a given event. -/
def State.selected (s : State) (e : DmaEvent) : Bool :=
  ([0, 1, 2, 3, 4, 5] : List (Fin 6)).any fun c =>
    [false, true].any fun w => (s.dev.dma[c]).latches w && dieEvent s.die c w == e && s.dmaRequest c w e

/-- IIF and the level acknowledges after forwarding the request of pin x. -/
def State.clearIiof (s : State) (x : Fin 4) : State :=
  if s.selected (.iiof x) then
    (if s.iiofType x then { s with ackPending := putBit s.ackPending x.val true }
     else { s with iif := putBit s.iif (4 * x.val + 2) false })
  else s

/-- IIF after forwarding the request of timer n. -/
def State.clearTimer (s : State) (n : Fin 2) : State :=
  if s.selected (.timer n) then { s with iif := putBit s.iif (timerFlag n) false } else s

/-- The flag of interrupt `v` is forwarded to the DMA in this step. -/
def State.contended (s : State) (v : Nat) : Bool :=
  if v = 2 then s.selected (.timer 0)
  else if v = 0x2B then s.selected (.timer 1)
  else if 3 ≤ v ∧ v ≤ 6 then s.selected (.iiof (Fin.ofNat 4 (v - 3)))
  else false

/-- The requests forwarded in this step that the CPU could take in it, by their IIF bits: the CPU takes them too (60 R659). -/
def State.claims (s : State) : Word :=
  ([2, 3, 4, 5, 6, 0x2B] : List Nat).foldl (fun w v =>
    if s.listening && s.contended v && s.pending v && s.enabled v then putBit w ((flagBit v).getD 0) true else w) 0

/-- The selected requests are latched for the channels, and their flags cleared; not while IDLE2 stops the clocks. -/
def State.forward (s : State) : State :=
  if s.phase = .idle2 then s
  else
    let t := (((((s.clearIiof 0).clearIiof 1).clearIiof 2).clearIiof 3).clearTimer 0).clearTimer 1
    { t with
      claimed := s.claimed ||| s.claims
      dev := { t.dev with
        dma := ⟨#[s.dmaLatch 0, s.dmaLatch 1, s.dmaLatch 2, s.dmaLatch 3, s.dmaLatch 4, s.dmaLatch 5], rfl⟩ } }

end Sys2Proof.Machine
end

