-- ==== Sys2Proof/Machine/Environment.lean ====
section
/-! DEFINITION. The moves of the other agents (92 D70, 00 R12): the DMA coprocessor's accesses, the other core, the other
bus masters, the line sides of the devices. -/

namespace Sys2Proof.Machine

/-! ### DMA (65 R525, R535, R540) -/

/-- A channel replaced, with its interrupt pulse. -/
def Devices.setDma (d : Devices) (c : Fin 6) (x : DmaChannel × Bool) : Devices :=
  { d with dma := d.dma.set c x.1, pulses := if x.2 then putBit d.pulses (25 + c.val) true else d.pulses }

/-- Channel `c` after an access, unless its half has been reset since it began: then the access is completed and what it read
is discarded (65 R524); its address and counters are not stepped then (DESIGN CHOICE, log 31). -/
def State.afterDma (s : State) (c : Fin 6) (aux : Bool) (f : DmaChannel → DmaChannel × Bool) : State :=
  let ch := s.dev.dma[c]
  if ch.access = some aux then { s with dev := s.dev.setDma c (f { ch with access := none }) } else s

/-- One access of channel `c` at an address; the register write of an autoinitialisation uses the peripheral bus (65 R535). -/
def State.dmaAccess (s : State) (c : Fin 6) (op : DmaOp) (a : Word) : Res Unit :=
  match op with
  | .load aux => (memRead .dma a s).andThen fun v t => t.afterDma c aux fun ch => (ch.loaded aux v, false)
  | .install aux v =>
      if s.peripheralHeld .dma then .wait .peripheral
      else .ok () (s.afterDma c aux fun ch => (ch.installed (c == 0) aux v, false))
  | .fetch aux => (memRead .dma a s).andThen fun v t => t.afterDma c aux fun ch => (ch.fetched aux v, false)
  | .store aux v => (memWrite .dma a v s).andThen fun _ t => t.afterDma c aux fun ch => ch.stored aux

/-- An access is tried: one that is not ready is held until it is, and holds the buses of the coprocessor (65 R513, R520).
`granted` says that the bus grant of NMI has ended it: a read then gives a free value and a write is dropped (10 R33, 93 U3);
the CPU's own grant does not serve it. -/
def State.dmaTry (s : State) (c : Fin 6) (op : DmaOp) (a : Word) (granted : Bool) : Res Unit :=
  let grant (t : State) (g : Bool) : State := { t with dev := { t.dev with busGrant := g } }
  match (grant { s with dmaHeld := none } granted).dmaAccess c op a with
  | .ok _ t => .ok () (grant { t with dev := { t.dev with dmaFirst := c + 1 } } s.dev.busGrant)
  | .wait w => .ok () { s with dmaHeld := some ⟨c, op, a, if granted then .granted else w⟩ }
  | .fault f => .fault f
  | .refused r => .refused r

/-- One access of the coprocessor: the one that is held, else that of the channel whose turn it is (65 R540). Every access is
a cycle of the event latches. -/
def State.dmaMove (s : State) : Res Unit :=
  let s := { s with dev := { s.dev with dma := s.dev.dma.map DmaChannel.tick } }
  match s.dmaHeld with
  | some h => s.dmaTry h.channel h.op h.address (h.why == .granted)
  | none => match s.dev.dmaGrant with
      | none => .ok () s
      | some (c, op) =>
          let ch := s.dev.dma[c]
          let t : State := { s with dev := { s.dev with dma := s.dev.dma.set c { ch with access := some op.aux } } }
          t.dmaTry c op (ch.address op) false

/-! ### The other core (66 R561, R562) -/

/-- A device of the commutator answers the other core. -/
def State.theirs (s : State) (d : Device) : Bool := connectedTo s.dev.rc (!s.pins.core2) d

/-- The other core reads a device register: only the effects of the read remain. -/
def State.otherRead (s : State) (a : Word) : State :=
  match region false a with
  | .device d off =>
      if s.theirs d then
        match s.dev.readDevice d off s.draws a with
        | some x => { s with dev := x.2, draws := s.draws + 1 }
        | none => s
      else s
  | _ => s

/-- The other core writes a device register or device RAM. -/
def State.otherWrite (s : State) (a v : Word) : State :=
  match region false a with
  | .device d off => if s.theirs d then { s with dev := (s.dev.writeDevice d off v).getD s.dev } else s
  | .deviceRam d =>
      if s.theirs d then { s with mem := Memory.writeWord s.mem a (if d = .mil then v &&& 0xFFFF else v) } else s
  | .pll => if s.theirs .uart then { s with dev := { s.dev with pll := pllWrite v } } else s
  | _ => s

/-! ### The moves -/

/-- The devices changed. -/
def State.withDev (s : State) (f : Devices → Devices) : State := { s with dev := f s.dev }

/-- The pins changed. -/
def State.withPins (s : State) (f : Pins → Pins) : State := { s with pins := f s.pins }

/-- System reset (70 R700–R706): everything at its reset value but the pins, the board, the ROM, the memory and the model's own
fields. -/
def State.restart (s : State) (romen : Bool) (resetloc : BitVec 2) : State :=
  { State.reset with
    dev := Devices.reset s.dev.mil.straps, pins := { s.pins with romen := romen, resetloc := resetloc }
    board := s.board, romImage := s.romImage, mem := s.mem, nmiLast := s.pins.nmi, iiofLast := s.pins.iiof, inputs := s.inputs, draws := s.draws }

/-- A move of the clocked core peripherals; it does not happen while IDLE2 stops their clock (43 R396). -/
def State.clocked (s : State) (f : Devices → Devices) : State := if s.phase = .idle2 then s else s.withDev f

/-- A device of the commutator is clocked: connected to the other core, or to this one outside IDLE2 (66 R565, 43 R396). -/
def State.deviceClocked (s : State) (k : Device) : Bool :=
  s.theirs k || (connectedTo s.dev.rc s.pins.core2 k && s.phase != .idle2)

/-- A move of a device, which it makes only while it is clocked. -/
def State.onDevice (s : State) (k : Device) (f : State → State) : State := if s.deviceClocked k then f s else s

/-- Something seen outside. -/
def State.emit (s : State) (l : List Output) : State := { s with outputs := s.outputs ++ l }

/-- The effects of a script of the 1553 device, on its registers and on the buses, and its memory. -/
def State.milMoved (s : State) (x : MilMove) : State :=
  ({ s with mem := x.mem }.withDev fun d => { d with mil := x.effects.foldl MilEffect.apply d.mil }).emit (milOutputs x.effects)

/-- One access of the 1553 device to its RAM: for the command of its controller, which begins with its first access, or for the
message that its terminal and monitor are at. -/
def State.milWord (s : State) (controller : Bool) : State :=
  match (if controller then milCommandJob s.dev.mil s.dev.milRun else s.dev.milHeard) with
  | none => s
  | some j =>
      let x := j.access s.mem
      (s.milMoved x).withDev fun d => if controller then { d with milRun := x.job } else { d with milHeard := x.job }

/-- The terminal and the monitor of the 1553 device are at a message: one on a bus, or in loop-back one of its own controller. -/
def Devices.milHearing (d : Devices) : Bool := d.milHeard.isSome || (d.milRun.map MilJob.hears).getD false

/-- The command of the controller ends on the bus. In loop-back, where the device hears it, that is when the accesses for the
message before are made, and until then the move does nothing, as with `State.milHear` (DESIGN CHOICE, log 38). -/
def State.milEnd (s : State) (b : MilBus) : State :=
  match s.dev.milRun with
  | none => s
  | some j =>
      if j.mil.loop && s.dev.milHearing then s
      else let x := j.replied b s.dev.mil s.mem; (s.milMoved x).withDev fun d => { d with milRun := x.job }

/-- The terminal and the monitor of the 1553 device hear a message, when they are done with the one before: a message lasts
longer than the accesses for it, and until these are made the move does nothing (DESIGN CHOICE, log 38). -/
def State.milHear (s : State) (g : MilMessage) : State :=
  if s.dev.milHearing then s
  else
    let x := s.dev.mil.heard g s.mem
    (s.milMoved x).withDev fun d => { d with milHeard := x.job }

/-- One burst of the cyclic output of the 1553 device: seen on a bus, or heard by itself in loop-back. -/
def State.milBurst (s : State) : State :=
  match s.dev.mil.burstHeard s.mem with
  | some g => s.milHear g
  | none => s.emit (s.dev.mil.burstShown s.mem)

/-- One move of another agent, already taken off the agenda. -/
def State.move (s : State) (i : Input) : Res Unit :=
  match i with
  | .cpu => .ok () s
  | .h1 => .ok () (s.clocked Devices.timersH1)
  | .tclk t level =>
      let old := s.pins.tclk.getLsbD t.val
      .ok () ((s.clocked fun d => d.setTimer t ((d.timers[t]).pinEdge old level)).withPins fun p =>
        { p with tclk := putBit p.tclk t.val level })
  | .nmi level => .ok () (s.withPins fun p => { p with nmi := level })
  | .iiof x level => .ok () (s.withPins fun p => { p with iiof := putBit p.iiof x.val level })
  | .romen level => .ok () (s.withPins fun p => { p with romen := level })
  | .busPins r0 r1 ae c0 c1 de => .ok () (s.withPins fun p =>
      { p with ready0 := r0, ready1 := r1, ae := ae, ce0 := c0, ce1 := c1, de := de })
  | .externalWrite a v =>
      .ok () (if region s.pins.romen a = .global ∧ s.populated a = true then { s with mem := Memory.writeWord s.mem a v }
        else s)
  | .portReceive k v => .ok () (s.clocked fun d => d.setPort k ((d.ports[k]).receive v))
  | .portSend k => .ok () (if s.phase = .idle2 then s else
      (s.withDev fun d => d.setPort k (d.ports[k]).send).emit ((s.dev.ports[k]).sent.toList.map (.portWord k)))
  | .portAsk k => .ok () (s.clocked fun d => d.setPort k (d.ports[k]).ask)
  | .portGrant k => .ok () (s.clocked fun d => d.setPort k (d.ports[k]).grant)
  | .dma => if s.phase = .idle2 then .ok () s else s.dmaMove
  | .otherAcquire => .ok () (s.withDev fun d => { d with owner := if d.owner = .free then .other else d.owner })
  | .otherRelease => .ok () (s.withDev fun d => { d with owner := if d.owner = .other then .free else d.owner })
  | .otherRc v => .ok () (s.withDev fun d => { d with rc := if d.owner = .other then v else d.rc })
  | .otherRead a => .ok () (s.otherRead a)
  | .otherWrite a v => .ok () (s.otherWrite a v)
  | .uartReceive c => .ok () (s.onDevice .uart fun t => t.withDev fun d => { d with uart := d.uart.receive c })
  | .uartShift => .ok () (s.onDevice .uart fun t =>
      (t.withDev fun d => { d with uart := d.uart.shiftOut }).emit (t.dev.uart.shifted.toList.map .uartByte))
  | .uartTimeout => .ok () (s.onDevice .uart fun t => t.withDev fun d =>
      { d with uart := { d.uart with timeout := !d.uart.rx.isEmpty } })
  | .uartModem v => .ok () (s.onDevice .uart fun t => t.withDev fun d => { d with uart := d.uart.setModem v })
  | .ethernetDma => .ok () (s.onDevice .ethernet fun t =>
      let x := t.dev.ethernet.access t.mem
      { t with mem := x.2 }.withDev fun d => { d with ethernet := x.1 })
  | .ethernetSent => .ok () (s.onDevice .ethernet fun t =>
      (t.withDev fun d => { d with ethernet := d.ethernet.transmitted }).emit t.dev.ethernet.shown.toList)
  | .ethernetReceive f => .ok () (s.onDevice .ethernet fun t => t.withDev fun d =>
      { d with ethernet := d.ethernet.receive f })
  | .ethernetBusError r => .ok () (s.onDevice .ethernet fun t => t.withDev fun d =>
      { d with ethernet := d.ethernet.busError r })
  | .ethernetPhy n v => .ok () (s.onDevice .ethernet fun t => t.withDev fun d =>
      { d with ethernet := d.ethernet.phy n v })
  | .usbLine status frame => .ok () (s.onDevice .usb fun t => t.withDev fun d => { d with usb := d.usb.line status frame })
  | .usbEvent src => .ok () (s.onDevice .usb fun t => t.withDev fun d => { d with usb := d.usb.event src })
  | .usbToken x => .ok () (s.onDevice .usb fun t => t.withDev fun d => { d with usb := d.usb.begin x })
  | .usbWord => .ok () (s.onDevice .usb fun t =>
      let x := t.dev.usb.access t.mem
      ({ t with mem := x.2 }.withDev fun d => { d with usb := x.1 }).emit t.dev.usb.shown.toList)
  | .milWord controller => .ok () (s.onDevice .mil fun t => t.milWord controller)
  | .milController b => .ok () (s.onDevice .mil fun t => t.milEnd b)
  | .milBurst => .ok () (s.onDevice .mil State.milBurst)
  | .milMessage g => .ok () (s.onDevice .mil fun t => if t.dev.mil.loop then t else t.milHear g)
  | .milRamError => .ok () (s.onDevice .mil fun t => t.withDev fun d => { d with mil := d.mil.raise 12 })
  | .milClock w0 w1 => .ok () (s.onDevice .mil fun t => t.withDev fun d =>
      { d with mil := { d.mil with watch0 := w0, watch1 := w1 &&& 0x7FF } })
  | .reset romen resetloc => .ok () (s.restart romen resetloc)

end Sys2Proof.Machine
end

