-- ==== Sys2Proof/Machine/Loader.lean ====
section
/-! DEFINITION. The start of execution after reset (spec 70 R705) and the abstract boot loader (R710–R716). The
stores and values of the listing that are lost (USB descriptors, Ethernet buffers, the handler's stack frame) are free
(log 7). -/

namespace Sys2Proof.Machine

/-- The address of the reset vector (R705). -/
def resetVector (loc : BitVec 2) : Word :=
  match loc.toNat with | 0 => 0 | 1 => 0x7FFFFFFF | 2 => 0x80000000 | _ => 0xFFFFFFFF

/-- The next word of a stream in memory of a width: 4, 2 or 1 addresses, the least significant part first (R712). -/
def State.narrowWord (s : State) (a : Word) (width : Nat) : Res Word :=
  if width = 32 then memRead .plain a s
  else if width = 16 then
    (memRead .plain a s).bind fun l t => (memRead .plain (a + 1) t).bind fun h u =>
      .ok (h.extractLsb' 0 16 ++ l.extractLsb' 0 16) u
  else
    (memRead .plain a s).bind fun b0 t => (memRead .plain (a + 1) t).bind fun b1 u =>
      (memRead .plain (a + 2) u).bind fun b2 v => (memRead .plain (a + 3) v).bind fun b3 w =>
        .ok (b3.extractLsb' 0 8 ++ b2.extractLsb' 0 8 ++ b1.extractLsb' 0 8 ++ b0.extractLsb' 0 8) w

/-- How many addresses a stream word takes (R712). -/
def streamStep (width : Nat) : Word := if width = 32 then 1 else if width = 16 then 2 else 4

/-- The width the first word of a stream asks for (R712). -/
def streamWidth (w : Word) : Nat := if w.getLsbD 5 then 32 else if w.getLsbD 4 then 16 else 8

/-- One byte into the CRC-8 of the UART path (R715): polynomial 31h, most significant bit first. -/
def crc8 (crc b : Byte) : Byte :=
  (List.range 8).foldl (fun c _ => if c.msb then (c <<< 1) ^^^ 0x31 else c <<< 1) (crc ^^^ b)

/-- next() (R712, R713): the next stream word and where the stream goes on; a port is polled until it has a word, and from
the UART four bytes make one, the least significant first. -/
def State.streamWord (s : State) : BootSource → Res (Word × BootSource)
  | .memory a width => (s.narrowWord a width).bind fun w t => .ok (w, .memory (a + streamStep width) width) t
  | .port k =>
      if (s.dev.ports[k]).inFifo.isEmpty then .wait .poll
      else (memRead .plain (0x00100041 + BitVec.ofNat 32 (16 * k.val)) s).bind fun w t => .ok (w, .port k) t
  | .uart crc bytes =>
      let byte (i : Nat) : Byte := bytes.getD i 0
      .ok (byte 3 ++ byte 2 ++ byte 1 ++ byte 0, .uart crc []) s

/-- A word of the stream is complete: only from the UART it takes several moves. -/
def BootSource.ready : BootSource → Bool
  | .uart _ bytes => decide (4 ≤ bytes.length)
  | _ => true

/-- The base of boot memory selected by the pins (R711). -/
def bootBase (iif : Word) : Option Word :=
  if iif = 0x0044 then some 0xC0000000
  else if iif = 0x0404 then some 0xA0000000
  else if iif = 0x0444 then some 0x80000000
  else if iif = 0x4004 then some 0x60000000
  else if iif = 0x4044 then some 0x40000000
  else if iif = 0x4404 then some 0x00300000
  else none

/-- The device the pins select, and whether it goes to core 2 (R711). -/
def bootDevice (iif : Word) : Option (Device × Bool) :=
  if iif = 0x0040 then some (.uart, false)
  else if iif = 0x0400 then some (.uart, true)
  else if iif = 0x0440 then some (.ethernet, false)
  else if iif = 0x4000 then some (.ethernet, true)
  else if iif = 0x4040 then some (.usb, false)
  else if iif = 0x4400 then some (.usb, true)
  else none

/-- The loader goes to a stage. -/
def State.bootTo (s : State) (b : Boot) : State := { s with phase := .boot b, draws := s.draws + 1, waiting := none }

/-- Stores one after another. -/
def State.stores (s : State) : List (Word × Word) → Res Unit
  | [] => .ok () s
  | (a, v) :: t => (memWrite .plain a v s).bind fun _ u => u.stores t

/-- The width word of boot memory at a base (R712, R713). -/
def State.bootWidth (s : State) (b : Boot) (base : Word) : Res Unit :=
  (memRead .plain base s).bind fun w t =>
    .ok () (t.bootTo { b with stage := .globalControl, source := .memory (base + streamStep (streamWidth w)) (streamWidth w) })

/-- The check of the pins (R711, R713). An IIF that matches no row of Table 5.31, as with an NMI latched in bit 16, for which R711
gives no outcome, leads back to the check like the reserved codes, and as no interrupt is taken here (log 7) it does so until a
reset (DESIGN CHOICE, log 7). -/
def State.bootCheck (s : State) (b : Boot) : Res Unit :=
  let iif := s.readIif
  match bootDevice iif, bootBase iif with
  | some (d, second), _ => .ok () (s.bootTo { b with stage := .localBus d second })
  | none, some a => s.bootWidth b a
  | none, none =>
      if iif = 0x0004 then .ok () (s.bootTo { b with stage := .stopped })
      else if iif = 0x4444 then
        match ([0, 1, 2, 3, 4, 5] : List (Fin 6)).find? fun k => !(s.dev.ports[k]).inFifo.isEmpty with
        | some k => .ok () (s.bootTo { b with stage := .globalControl, source := .port k })
        | none => .ok () s
      else .ok () s

/-! ### The device paths (R715, R716) -/

/-- RS and RC. -/
def rsAddress : Word := 0x00300000
def rcAddress : Word := 0x00300001

/-- The code the loader writes to RC: 01b or 10b in the field of the device, the rest 0. -/
def connectCode (d : Device) (second : Bool) : Word := (if second then 2 else 1) <<< deviceField d

/-- The local bus without extra cycles (R715). -/
def State.bootLocalBus (s : State) (b : Boot) (d : Device) (second : Bool) : Res Unit :=
  (memWrite .plain 0x00100004 0x1EF78000 s).bind fun _ t => .ok () (t.bootTo { b with stage := .acquire d second })

/-- LDII of RS until it gives 0 (R716). -/
def State.bootAcquire (s : State) (b : Boot) (d : Device) (second : Bool) : Res Unit :=
  (memRead .interlocked rsAddress (s.setLock rsAddress false)).bind fun v t =>
    .ok () (t.bootTo { b with stage := if v = 0 then .connect d second else .acquire d second })

/-- The first stage of a device path behind its connection. -/
def deviceStage : Device → BootStage
  | .uart => .uartInit
  | .ethernet => .ethernetInit
  | .usb => .usbInit
  | .mil => .stopped

/-- RC written; the Ethernet and USB paths read it before and release RS behind it (R716). -/
def State.bootConnect (s : State) (b : Boot) (d : Device) (second : Bool) : Res Unit :=
  let code := connectCode d second
  let b := { b with stage := deviceStage d }
  if d = .uart then (memWrite .plain rcAddress code s).bind fun _ t => .ok () (t.bootTo b)
  else
    let s := { s with ar := (s.ar.set 6 rsAddress).set 7 rcAddress }
    (memRead .plain rcAddress s).bind fun _ t => (memWrite .plain rcAddress code t).bind fun _ u =>
      (memWrite .interlocked rsAddress code u).bind fun _ v => .ok () ((v.setLock rsAddress true).bootTo b)

/-- The UART set to 9600 baud, 8 bits, even parity, FIFOs cleared (R715). -/
def State.bootUartInit (s : State) (b : Boot) : Res Unit :=
  (memRead .plain 0x00400003 s).bind fun lcr t =>
    (t.stores [(0x00400003, lcr ||| 0x80), (0x00400001, 0), (0x00400000, 0x78), (0x00400003, 0x1B),
      (0x00400002, 0x06)]).bind fun _ u => .ok () (u.bootTo { b with stage := .marker, source := .uart 0xFF [] })

/-- One poll of the UART (R715): LSR read, and a byte taken where there is one. An error that this LSR reports in bit 7 is
answered with 0Fh, and the loader stops (that it is this read of LSR is a DESIGN CHOICE, log 7). -/
def State.bootByte (s : State) (b : Boot) (crc : Byte) (bytes : List Byte) : Res Unit :=
  (memRead .plain 0x00400005 s).bind fun lsr t =>
    if lsr.getLsbD 0 then
      (memRead .plain 0x00400000 t).bind fun v u =>
        let x := v.extractLsb' 0 8
        if lsr.getLsbD 7 then
          (memWrite .plain 0x00400000 0x0F u).bind fun _ w => .ok () (w.bootTo { b with stage := .stopped })
        else .ok () (u.bootTo { b with source := .uart (crc8 crc x) (bytes ++ [x]) })
    else .ok () (t.bootTo b)

/-- The Ethernet path (R715): SP, the MAC, ten receive descriptors at places that are not given, the receiver started. -/
def State.bootEthernetInit (s : State) (b : Boot) : Res Unit :=
  let s := { s with sp := 0x002FFFF0 }
  (s.stores ([(0x00700000, 0x1), (0x00700001, 0x15), (0x00700002, 0x15), (0x00700003, 0xC12), (0x00700004, 0x370F),
      (0x00700005, 0x600), (0x00700010, 0xA5A4), (0x00700011, 0xA3A2), (0x00700012, 0xA1A0)]
    ++ (Config.ethernetBootStores.map fun x => (0x00710000 + x.1.setWidth 32, x.2))
    ++ [(0x00700064, Config.ethernetBootRing), (0x00700063, 1)])).bind fun _ t =>
      .ok () (t.bootTo { b with stage := .ethernetFrames })

/-- The payload words of a frame in a receive buffer (R715): none unless its first words are FFFFFFFFh and 5555FFFFh. -/
def bootPayload (frame : List Word) : List Word :=
  if frame.take 2 = [0xFFFFFFFF, 0x5555FFFF] then frame.drop Config.ethernetHeader else []

/-- The payload of the frames along the receive ring. -/
def bootPayloads (m : List Host.Cell) (d : Word) : Nat → List Word
  | 0 => []
  | n + 1 =>
      let at' := ethernetWord d
      let bytes := (Memory.readWord m (at' + 1)).extractLsb' 0 12
      bootPayload (ethernetRead m (Memory.readWord m at') (ethernetWords bytes.toNat))
        ++ bootPayloads m (Memory.readWord m (at' + 2)) n

/-- Words with successive addresses. -/
def placed (a : Word) : List Word → List (Word × Word)
  | [] => []
  | v :: t => (a, v) :: placed (a + 1) t

/-- Ten frames awaited, then their payload gathered at 0071 2000h, its length reported in a frame, and boot memory is there
(R715). -/
def State.bootFrames (s : State) (b : Boot) : Res Unit :=
  (memRead .plain 0x00700065 s).bind fun status t =>
    if bits status 16 8 < 10 then .ok () (t.bootTo b)
    else
      let payload := bootPayloads t.mem Config.ethernetBootRing 10
      (t.stores (placed 0x00712000 payload
          ++ ((Config.ethernetReport payload.length).map fun x => (0x00710000 + x.1.setWidth 32, x.2))
          ++ [(0x00700061, Config.ethernetReportRing), (0x00700060, 1)])).bind fun _ u =>
        .ok () (u.bootTo { b with stage := .width 0x00712000 })

/-- The USB path (R715): SP, IVTP at the loader's own table, IIF = 9, descriptors and endpoints, GIE. -/
def State.bootUsbInit (s : State) (b : Boot) : Res Unit :=
  let s := (({ s with sp := 0x002FFF00 } : State).putX .ivtp Config.loaderVectors).writeIif 9
  (s.stores ((Config.usbBootDescriptors.map fun x => (0x00610000 + x.1.setWidth 32, x.2))
    ++ (Config.usbBootRegisters.map fun x => (0x00600000 + x.1.setWidth 32, x.2)))).bind fun _ t =>
      .ok () ({ t with st := t.st ||| 0x2000 }.bootTo { b with stage := .usbPackets 0 })

/-- An interrupt of the loader (R715): entered as any other, with a return address inside the loader, which is not given. -/
def State.bootInterrupt (s : State) (v : Nat) : Res Unit :=
  ((s.acknowledge v).saveStatus).push (Config.loaderAddress s.draws)

/-- The wait for 32 USB packets (R715): each IIOF0 interrupt reads INT_SRC and counts the packets received that this read
acknowledges, those that set RD at some endpoint (DESIGN CHOICE, log 7: the handler is lost), then returns; behind the last one it
clears IIF and goes on to boot memory at 0061 0600h with GIE = 0 and one return address on the stack. NMI leads to the loader's
STOP. -/
def State.bootPackets (s : State) (b : Boot) (n : Nat) : Res Unit :=
  if s.pending 1 then (s.bootInterrupt 1).bind fun _ t => .ok () (t.bootTo { b with stage := .stopped })
  else if s.pending 3 && s.enabled 3 then
    (s.bootInterrupt 3).bind fun _ t => (memRead .plain 0x0060000C t).bind fun _ u =>
      let k := n + (t.dev.usb.received - u.dev.usb.received)
      if 32 ≤ k then .ok () ((u.writeIif 0).bootTo { b with stage := .width 0x00610600 })
      else u.exceptionReturn.bind fun _ w => .ok () (w.bootTo { b with stage := .usbPackets k })
  else .ok () (s.bootTo b)

/-- The word that marks the start of a UART stream (R715). -/
def State.bootMarker (s : State) (b : Boot) : Res Unit :=
  (s.streamWord b.source).bind fun x t =>
    .ok () (t.bootTo { b with source := x.2, stage := if x.1 = 0x20 then .globalControl else .marker })

/-! ### The stream (R713) -/

/-- The registers and flags the loader leaves behind (R713). The rule states its list for memory and port boot; the UART, Ethernet
and USB paths leave the same list, and every other register as it was (DESIGN CHOICE, log 7). -/
def State.leftovers (s : State) : State :=
  let x := Config.loaderLeftover s.draws
  let w (n : Nat) : Word := (x n).setWidth 32
  { s with
    r := ((((s.r.set 0 (x 0)).set 1 (x 1)).set 9 (x 9)).set 10 (x 10)).set 11 (x 11)
    ar := (((s.ar.set 0 (w 12)).set 1 (w 13)).set 2 (w 14)).set 3 (w 15)
    rc := w 16, rs := w 17, re := w 18, st := merge 0x7F (w 19) s.st }

/-- The end of the loader: execution starts at the first word of the first block (R713). -/
def State.bootDone (s : State) (b : Boot) : State :=
  let t := s.leftovers
  { t with pc := b.entry.getD ((t.r[9]).setWidth 32), phase := .running, draws := t.draws + 1, waiting := none }

/-- One stream word taken by the loader (R713). -/
def State.bootWord (s : State) (b : Boot) : Res Unit :=
  (s.streamWord b.source).bind fun x t =>
    let b := { b with source := x.2 }
    match b.stage with
    | .globalControl => (memWrite .plain 0x00100000 x.1 t).bind fun _ u => .ok () (u.bootTo { b with stage := .localControl })
    | .localControl => (memWrite .plain 0x00100004 x.1 t).bind fun _ u => .ok () (u.bootTo { b with stage := .size })
    | .size => .ok () (t.bootTo { b with stage := if x.1 = 0 then .ivtp else .dest x.1 })
    | .dest n => .ok () (t.bootTo { b with stage := .data x.1 n, entry := some (b.entry.getD x.1) })
    | .data dst n => (memWrite .plain dst x.1 t).bind fun _ u =>
        .ok () (u.bootTo { b with stage := if n = 1 then .size else .data (dst + 1) (n - 1) })
    | .ivtp => .ok () ((t.putX .ivtp x.1).bootTo { b with stage := .tvtp })
    | .tvtp => .ok () ((t.putX .tvtp x.1).bootTo { b with stage := .iack })
    | .iack => .ok () ((t.iackFall x.1).bootTo { b with stage := .iackRead x.1 })
    | _ => .ok () t

/-- The read of the final IACK, whose pulse ends with it (R713, 60 R662); the UART path has its answer still to send. -/
def State.bootIack (s : State) (b : Boot) (a : Word) : Res Unit :=
  (memRead .plain a s).bind fun _ t =>
    let u := t.iackRise a
    match b.source with
    | .uart _ _ => .ok () (u.bootTo { b with stage := .finish a })
    | _ => .ok () (u.bootDone b)

/-- The end of the UART path (R715, R716): 0Ah and the CRC sent, then the listing's STII of the last stream word to RC, which
leaves RS held (90 C60). -/
def State.bootFinish (s : State) (b : Boot) (last : Word) : Res Unit :=
  let crc : Byte := match b.source with | .uart c _ => c | _ => 0
  (s.stores [(0x00400000, 0x0A), (0x00400000, crc.setWidth 32)]).bind fun _ t =>
    (memWrite .interlocked rcAddress last t).bind fun _ u => .ok () ((u.setLock rcAddress true).bootDone b)

/-- A complete stream word is taken: the marker of a UART stream, or a word of the stream proper. -/
def State.bootTaken (s : State) (b : Boot) : Res Unit :=
  match b.stage with
  | .marker => s.bootMarker b
  | _ => s.bootWord b

/-- One move of the loader. -/
def State.bootMove (s : State) (b : Boot) : Res Unit :=
  match b.stage with
  | .check => s.bootCheck b
  | .width base => s.bootWidth b base
  | .localBus d second => s.bootLocalBus b d second
  | .acquire d second => s.bootAcquire b d second
  | .connect d second => s.bootConnect b d second
  | .uartInit => s.bootUartInit b
  | .ethernetInit => s.bootEthernetInit b
  | .ethernetFrames => s.bootFrames b
  | .usbInit => s.bootUsbInit b
  | .usbPackets n => s.bootPackets b n
  | .iackRead a => s.bootIack b a
  | .finish last => s.bootFinish b last
  | .stopped => .ok () s
  | .marker | .globalControl | .localControl | .size | .dest _ | .data _ _ | .ivtp | .tvtp | .iack =>
      match b.source with
      | .uart crc bytes => if b.source.ready then s.bootTaken b else s.bootByte b crc bytes
      | _ => s.bootTaken b

/-- The start after reset (R705, R710): with ROMEN = 1 and RESETLOC = 00 the loader, unless the host has supplied an image of the
ROM (92 D66); else the reset vector, which with such an image is its word 0. -/
def State.start (s : State) : Res Unit :=
  if s.pins.romen && s.pins.resetloc == 0 && s.romImage.isNone then .ok () (s.bootTo ⟨.check, .memory 0 32, none⟩)
  else (memRead .plain (resetVector s.pins.resetloc) s).bind fun v t =>
    .ok () { t with pc := v, phase := .running, draws := t.draws + 1, waiting := none }

end Sys2Proof.Machine
end

