-- ==== Sys2Proof/Machine/Sequence.lean ====
section
/-! DEFINITION. What the step checks and does around an instruction: the rules for delay slots and repeat blocks (spec 43
R374, R380; 70 R730), annulled slots (43 R385), and the registers that conflict in the pipeline (70 R721). -/

namespace Sys2Proof.Machine

/-! ### Classes of instructions -/

/-- The delayed branches (43 R380). -/
def delayedFlow : Instr → Bool
  | .bCondAf .. | .bCondAt .. | .bCondD .. | .brd _ | .dbCondD .. | .laj _ | .lajCond .. | .latCond .. | .retiCondD _
  | .rptbd _ => true
  | _ => false

/-- The other instructions that change the program flow (43 R374, R380). SWI counts as one, so that the word behind it is
fetched and dropped before the core sticks, which an undefined word does not show (DESIGN CHOICE, log 11). -/
def standardFlow : Instr → Bool
  | .bCond .. | .br _ | .call _ | .callCond .. | .dbCond .. | .idle | .idle2 | .retiCond _ | .retsCond _ | .rptb _
  | .rpts _ | .trapCond .. | .swi => true
  | _ => false

/-- Any instruction that changes the program flow. -/
def changesFlow (i : Instr) : Bool := delayedFlow i || standardFlow i

/-- The integer registers an instruction names as destination, and SP of a push or pop. -/
def writtenRegs : Instr → List Reg
  | .lda d _ | .ldep d _ | .ldhi d _ | .ldi d _ | .ldiCond _ d _ | .absi d _ | .addc d _ | .addi d _
  | .and d _ | .andn d _ | .ash d _ | .fix d _ | .lb _ d _ | .lbu _ d _ | .lh _ d _ | .lhu _ d _ | .lsh d _
  | .lwl _ d _ | .lwr _ d _ | .mb _ d _ | .mh _ d _ | .mpyi d _ | .mpyshi d _ | .mpyuhi d _ | .negb d _ | .negi d _
  | .not d _ | .or d _ | .rol d | .rolc d | .ror d | .rorc d | .subb d _ | .subc d _ | .subi d _ | .subrb d _
  | .subri d _ | .xor d _ | .addc3 d _ | .addi3 d _ | .and3 d _ | .andn3 d _ | .ash3 d _ | .lsh3 d _ | .mpyi3 d _
  | .mpyshi3 d _ | .mpyuhi3 d _ | .or3 d _ | .subb3 d _ | .subi3 d _ | .xor3 d _ | .ldii d _ | .sigi d _ => [d]
  | .pop d => [d, .sp]
  | .push _ | .pushf _ | .popf _ => [.sp]
  | _ => []

/-! ### Forbidden places (93 U34) -/

/-- An instruction that its delay slot forbids: a flow change anywhere; ST or SP after RETIcondD, ST after LATcond, RC
after RPTBD (43 R366, R373, R380, R383). R11 after LAJ and LAJcond, which R381 forbids without saying what happens, is simply
written (DESIGN CHOICE, log 12). -/
def slotForbids (k : DelayKind) (i : Instr) : Bool :=
  changesFlow i ||
    match k with
    | .branch => false
    | .trap => (writtenRegs i).contains .st
    | .retid => (writtenRegs i).contains .st || (writtenRegs i).contains .sp
    | .rptbd => (writtenRegs i).contains .rc

/-- An instruction that the repeat mode forbids here (43 R374): a flow change under RPTS or at the end of a block, a
delayed branch among the last four instructions of a block. LATcond counts as one of these, though the list of R374 does not
name it (DESIGN CHOICE, log 12). -/
def repeatForbids (s : State) (i : Instr) : Bool :=
  s.repeatMode &&
    (if s.repeatSingle then changesFlow i
     else (decide (s.pc = s.re) && changesFlow i)
       || (decide (s.rs ≤ s.pc ∧ s.pc ≤ s.re ∧ (s.re - s.pc).toNat < 4) && delayedFlow i))

/-! ### Annulled slots (43 R385, 92 D51) -/

/-- The write-back of an indirect operand as a list. -/
def State.indWrites (s : State) (i : Ind) (disp : Word) : List (Reg × Word) :=
  match s.indNew i disp with | none => [] | some v => [(.ar i.n, v)]

/-- The write-backs of two indirect operands, the winning one last. -/
def State.pairWrites (s : State) (hi lo : Ind) : List (Reg × Word) := s.indWrites lo implied ++ s.indWrites hi implied

/-- The write-back of a memory operand. -/
def State.memWrites (s : State) : Mem → List (Reg × Word)
  | .dir _ => []
  | .ind i d => s.indWrites i (d.setWidth 32)

/-- The write-back of a general source operand. -/
def State.srcWrites {ρ : Type} (s : State) : Src ρ → List (Reg × Word)
  | .mem m => s.memWrites m
  | _ => []

/-- The write-backs of a three-operand pair. -/
def State.triWrites {ρ : Type} (s : State) : Tri ρ → List (Reg × Word)
  | .indReg i _ => s.indWrites i implied
  | .regInd _ j => s.indWrites j implied
  | .indInd i j => s.pairWrites i j
  | _ => []

/-- The address-register updates of an instruction's operands, in the order they are written. -/
def State.addressWrites (s : State) : Instr → List (Reg × Word)
  | .lda _ o | .ldi _ o | .ldiCond _ _ o | .absi _ o | .addc _ o | .addi _ o | .and _ o | .andn _ o
  | .ash _ o | .cmpi _ o | .lb _ _ o | .lbu _ _ o | .lh _ _ o | .lhu _ _ o | .lsh _ o | .lwl _ _ o | .lwr _ _ o
  | .mb _ _ o | .mh _ _ o | .mpyi _ o | .mpyshi _ o | .mpyuhi _ o | .negb _ o | .negi _ o | .not _ o | .or _ o
  | .subb _ o | .subc _ o | .subi _ o | .subrb _ o | .subri _ o | .tstb _ o | .xor _ o | .rpts o => s.srcWrites o
  | .lde _ o | .ldf _ o | .ldfCond _ _ o | .ldm _ o | .absf _ o | .addf _ o | .cmpf _ o | .fix _ o | .float _ o
  | .mpyf _ o | .negf _ o | .norm _ o | .rcpf _ o | .rnd _ o | .rsqrf _ o | .subf _ o | .subrf _ o
  | .toieee _ o => s.srcWrites o
  | .stf _ m | .sti _ m | .stik _ m | .frieee _ m | .iack m | .ldfi _ m | .ldii _ m | .sigi _ m | .stfi _ m
  | .stii _ m => s.memWrites m
  | .nop (.ind i d) => s.indWrites i (d.setWidth 32)
  | .addc3 _ o | .addi3 _ o | .and3 _ o | .andn3 _ o | .ash3 _ o | .cmpi3 o | .lsh3 _ o | .mpyi3 _ o | .mpyshi3 _ o
  | .mpyuhi3 _ o | .or3 _ o | .subb3 _ o | .subi3 _ o | .tstb3 o | .xor3 _ o => s.triWrites o
  | .addf3 _ o | .cmpf3 o | .mpyf3 _ o | .subf3 _ o => s.triWrites o
  | .absfStf o | .absiSti o | .fixSti o | .floatStf o | .frieeeStf o | .ldfStf o | .ldiSti o | .negfStf o
  | .negiSti o | .notSti o | .toieeeStf o => s.pairWrites o.dst2 o.src2
  | .addf3Stf o | .addi3Sti o | .and3Sti o | .ash3Sti o | .lsh3Sti o | .mpyf3Stf o | .mpyi3Sti o | .or3Sti o
  | .subf3Stf o | .subi3Sti o | .xor3Sti o => s.pairWrites o.dst2 o.src2
  | .ldfLdf o | .ldiLdi o => s.pairWrites o.src1 o.src2
  | .stfStf o | .stiSti o => s.pairWrites o.dst1 o.dst2
  | .mpyf3Addf3 o | .mpyf3Subf3 o | .mpyi3Addi3 o | .mpyi3Subi3 o => s.pairWrites o.src3 o.src4
  | _ => []

/-- The register an instruction writes in its decode or read phase besides (92 D51): SP of a push or pop, DP of LDPK and
LDP, the destination of LDA. -/
def State.earlyWrites (s : State) : Instr → List (Reg × Word)
  | .push _ | .pushf _ => [(.sp, s.sp + 1)]
  | .pop _ | .popf _ => [(.sp, s.sp - 1)]
  | .ldpk v | .ldp v => [(.dp, zext16 v)]
  | .lda d o => match s.sourceInt o with | .ok x _ => [(d, x)] | _ => []
  | _ => []

/-- The open updates applied, each if the implementation lets it survive. -/
def State.survive (s : State) (draw : Nat) : Nat → List (Reg × Word) → State
  | _, [] => s
  | k, (r, v) :: t => (if Config.annulSideEffect draw k then s.put r v else s).survive draw (k + 1) t

/-- An annulled slot instruction: it only advances the program counter, but for the updates that are open. A read it had
already started, which 43 R385 lets appear outside, is never shown (DESIGN CHOICE, log 15). -/
def State.annul (s : State) (i : Instr) : State :=
  let t := s.sequenced
  t.survive t.draws 0 (t.addressWrites i ++ t.earlyWrites i)

/-! ### A look at the next word -/

/-- The word of plain memory at an address, looked at without an access: RAM, ROM, ready global memory, the RAM of a device
that answers; none where a read would wait or is no read of memory. -/
def State.plainWord (s : State) (a : Word) : Option Word :=
  match region s.pins.romen a with
  | .ram => some (Memory.readWord s.mem a)
  | .rom i => some (s.romWord i)
  | .global => if globalReady s a false && s.populated a then some (Memory.readWord s.mem a) else none
  | .deviceRam d => if answers s d a then some (s.deviceWord d a) else none
  | _ => none

/-- The word a fetch from an address would give: that of the cache where an external one is there (20 R126). -/
def State.peek (s : State) (a : Word) : Option Word :=
  match (if s.onBus a && s.cacheEnabled then s.cache.lookup a else none) with
  | some w => some w
  | none => s.plainWord a

/-- The instructions behind which, where they read a register, the next word is fetched anew or not executed at all (70
R720): the branches, calls, traps and returns that are not delayed. RPTB and RPTS are left out, though R720 lists them as
flushing: with register DP as their operand and an LDPK or LDP right behind they take the new DP, as 92 D56 gives it to any
instruction before LDPK (43 R371, R372; DESIGN CHOICE, log 16). -/
def flushes : Instr → Bool
  | .rptb _ | .rpts _ => false
  | i => standardFlow i

/-! ### Register conflicts (70 R721) -/

/-- The groups of registers for address generation. -/
inductive RegGroup where | address | page | stack
deriving DecidableEq, Repr

/-- The group of a register. -/
def groupOf : Reg → Option RegGroup
  | .ar _ | .ir0 | .ir1 | .bk => some .address
  | .dp => some .page
  | .sp => some .stack
  | _ => none

/-- The group that a read of a register as an operand holds back: not that of IR0, IR1, BK and DP. -/
def readGroup : Reg → Option RegGroup
  | .ar _ => some .address
  | .sp => some .stack
  | _ => none

/-- The group a memory operand is addressed with. -/
def memGroups : Mem → List RegGroup
  | .dir _ => [.page]
  | .ind _ _ => [.address]

/-- The group a general source operand is addressed with. -/
def srcGroups {ρ : Type} : Src ρ → List RegGroup
  | .mem m => memGroups m
  | _ => []

/-- The group a three-operand pair is addressed with. -/
def triGroups {ρ : Type} : Tri ρ → List RegGroup
  | .regReg .. | .regImm .. => []
  | _ => [.address]

/-- The groups an instruction uses for addressing in its decode phase; the counter of DBcond counts as one. -/
def addressing : Instr → List RegGroup
  | .lda _ o | .ldi _ o | .ldiCond _ _ o | .absi _ o | .addc _ o | .addi _ o | .and _ o | .andn _ o
  | .ash _ o | .cmpi _ o | .lb _ _ o | .lbu _ _ o | .lh _ _ o | .lhu _ _ o | .lsh _ o | .lwl _ _ o | .lwr _ _ o
  | .mb _ _ o | .mh _ _ o | .mpyi _ o | .mpyshi _ o | .mpyuhi _ o | .negb _ o | .negi _ o | .not _ o | .or _ o
  | .subb _ o | .subc _ o | .subi _ o | .subrb _ o | .subri _ o | .tstb _ o | .xor _ o | .rpts o => srcGroups o
  | .lde _ o | .ldf _ o | .ldfCond _ _ o | .ldm _ o | .absf _ o | .addf _ o | .cmpf _ o | .fix _ o | .float _ o
  | .mpyf _ o | .negf _ o | .norm _ o | .rcpf _ o | .rnd _ o | .rsqrf _ o | .subf _ o | .subrf _ o
  | .toieee _ o => srcGroups o
  | .stf _ m | .sti _ m | .stik _ m | .frieee _ m | .iack m | .ldfi _ m | .ldii _ m | .sigi _ m | .stfi _ m
  | .stii _ m => memGroups m
  | .addc3 _ o | .addi3 _ o | .and3 _ o | .andn3 _ o | .ash3 _ o | .cmpi3 o | .lsh3 _ o | .mpyi3 _ o | .mpyshi3 _ o
  | .mpyuhi3 _ o | .or3 _ o | .subb3 _ o | .subi3 _ o | .tstb3 o | .xor3 _ o => triGroups o
  | .addf3 _ o | .cmpf3 o | .mpyf3 _ o | .subf3 _ o => triGroups o
  | .nop (.ind _ _) | .dbCond .. | .dbCondD .. | .absfStf _ | .absiSti _ | .fixSti _ | .floatStf _ | .frieeeStf _
  | .ldfStf _ | .ldiSti _ | .negfStf _ | .negiSti _ | .notSti _ | .toieeeStf _ | .addf3Stf _ | .addi3Sti _ | .and3Sti _
  | .ash3Sti _ | .lsh3Sti _ | .mpyf3Stf _ | .mpyi3Sti _ | .or3Sti _ | .subf3Stf _ | .subi3Sti _ | .xor3Sti _ | .ldfLdf _
  | .ldiLdi _ | .stfStf _ | .stiSti _ | .mpyf3Addf3 _ | .mpyf3Subf3 _ | .mpyi3Addi3 _ | .mpyi3Subi3 _ => [.address]
  | .push _ | .pushf _ | .pop _ | .popf _ | .call _ | .callCond .. | .retiCond _ | .retiCondD _ | .retsCond _
  | .trapCond .. => [.stack]
  | _ => []

/-- The registers an instruction writes in its execute phase: LDA writes its destination before, LDPK and LDP write DP before,
a push or pop SP (70 R721, R729). -/
def lateWrites : Instr → List Reg
  | .lda .. | .push _ | .pushf _ | .popf _ => []
  | .pop d => [d]
  | i => writtenRegs i

/-- The register of a general source operand. -/
def srcReads : Src Reg → List Reg
  | .reg r => [r]
  | _ => []

/-- The registers of a three-operand pair. -/
def triReads : Tri Reg → List Reg
  | .regReg x y => [x, y]
  | .regImm x _ | .regInd x _ | .indReg _ x | .regDisp x _ => [x]
  | _ => []

/-- The registers an instruction reads as operands and does not write. -/
def operandReads : Instr → List Reg
  | .lda _ o | .ldi _ o | .ldiCond _ _ o | .absi _ o | .addc _ o | .addi _ o | .and _ o | .andn _ o
  | .ash _ o | .lb _ _ o | .lbu _ _ o | .lh _ _ o | .lhu _ _ o | .lsh _ o | .lwl _ _ o | .lwr _ _ o
  | .mb _ _ o | .mh _ _ o | .mpyi _ o | .mpyshi _ o | .mpyuhi _ o | .negb _ o | .negi _ o | .not _ o | .or _ o
  | .subb _ o | .subc _ o | .subi _ o | .subrb _ o | .subri _ o | .xor _ o | .rpts o => srcReads o
  | .cmpi d o | .tstb d o => d :: srcReads o
  | .addc3 _ o | .addi3 _ o | .and3 _ o | .andn3 _ o | .ash3 _ o | .cmpi3 o | .lsh3 _ o | .mpyi3 _ o | .mpyshi3 _ o
  | .mpyuhi3 _ o | .or3 _ o | .subb3 _ o | .subi3 _ o | .tstb3 o | .xor3 _ o => triReads o
  | .sti r _ | .stii r _ | .push r | .ldpe _ r | .bCondD _ (.reg r) | .bCondAf _ (.reg r) | .bCondAt _ (.reg r)
  | .lajCond _ (.reg r) | .dbCondD _ _ (.reg r) | .rptbd (.reg r) => [r]
  | _ => []

/-- The cycles for which a group is held back. -/
def Busy.of (b : Busy) : RegGroup → Nat
  | .address => b.address
  | .page => b.page
  | .stack => b.stack

/-- How many cycles the decode of an instruction waits. -/
def Busy.hold (b : Busy) (i : Instr) : Nat := ((addressing i).map b.of).foldl max 0

/-- What is held back behind an instruction: a written group for two cycles from its own decode, a read one for one. -/
def Busy.after (b : Busy) (i : Instr) : Busy :=
  let left (g : RegGroup) : Nat :=
    max (b.of g - (b.hold i + 1))
      (if (lateWrites i).any fun r => groupOf r == some g then 2
       else if (operandReads i).any fun r => readGroup r == some g then 1 else 0)
  ⟨left .address, left .page, left .stack⟩

/-- The instruction is tried again after an access of its own, not its fetch, has waited. -/
def State.retrying (s : State) : Bool :=
  match s.waiting with
  | none => false
  | some (.bus c) => c.access != .program
  | some (.reserved k) => k != .program
  | some _ => true

end Sys2Proof.Machine
end

