-- ==== Sys2Proof/Machine/Execution.lean ====
section
/-! DEFINITION. The moves of the CPU: fetching and issuing an instruction, entering an interrupt, waiting (spec 20 R126,
43 R370, R380, 60 R652–R663), and the choice between them and the agenda (92 D70). -/

namespace Sys2Proof.Machine

/-- The instruction word at the program counter (20 R126, 43 R370): from IR under RPTS, from the cache where it holds
the word, else by a read, which fills an enabled cache that is not frozen. With ROMEN = 0 a fetch below 0010 0000h, reserved on
this chip (R104), passes the cache and fills it too: R126 takes every fetch from the local bus, though 93 U4 lets a reserved fetch
change no state (DESIGN CHOICE, log 10). -/
def State.fetchWord (s : State) : Res Word :=
  if s.repeatMode && s.repeatSingle && s.irHeld then .ok s.ir s
  else if s.onBus s.pc && s.cacheEnabled then
    match s.cache.lookup s.pc with
    | some w => .ok w { s with ir := w, cache := if s.cacheFrozen then s.cache else s.cache.hit s.pc }
    | none => (memRead .program s.pc s).bind fun w t =>
        .ok w { t with ir := w, cache := if t.cacheFrozen then t.cache else t.cache.fill s.pc w }
  else (memRead .program s.pc s).bind fun w t => .ok w { t with ir := w }

/-- A fetch that is discarded or made again: it passes the cache, and takes a cycle on an external bus, like any other (20
R126, 70 R720, R729). -/
def State.passFetch (s : State) (a : Word) : State :=
  if !s.onBus a then s
  else match (if s.cacheEnabled then s.cache.lookup a else none), s.plainWord a with
    | some _, _ => if s.cacheFrozen then s else { s with cache := s.cache.hit a }
    | none, some w =>
        s.shows .program a none (if s.cacheEnabled && !s.cacheFrozen then { s with cache := s.cache.fill a w } else s)
    | none, none => s

/-- The fetches made again while the decode of an instruction is held back (70 R721). -/
def State.refetch (s : State) (a : Word) : Nat → State
  | 0 => s
  | n + 1 => (s.passFetch a).refetch a n

/-- The traces of an instruction in the fetch unit: the word behind it is fetched again in every cycle its decode waits (70
R721, R729), unless RPTS holds it in IR; and the one behind a standard branch is fetched and dropped (R720), which empties
the pipeline. An instruction that is only tried again leaves none. -/
def State.traces (s : State) (i : Instr) : State :=
  if s.retrying then s
  else
    let t := if s.sequenced.irHeld then s else s.refetch s.sequenced.pc (s.busy.hold i)
    if standardFlow i then { t.passFetch (s.pc + 1) with busy := ⟨0, 0, 0⟩ } else { t with busy := s.busy.after i }

/-! ### LDPK, LDP and LDA ahead of the instruction in front of them (40 R220, R228; 70 R729; 92 D56) -/

/-- LDA, which reads its own operand in its read phase. -/
def isLda : Instr → Bool
  | .lda .. => true
  | _ => false

/-- The registers a delayed branch writes besides its operands' (43 R366, R373, R381–R383). -/
def slotFlowWrites : Instr → List Reg
  | .laj _ | .lajCond .. | .latCond .. => [.r 11]
  | .rptbd _ => [.rs, .re]
  | _ => []

/-- A register that an instruction does not write in or after its execute phase: ST none, whose flags any may write. -/
def settled (i : Instr) (r : Reg) : Bool := r != .st && !(lateWrites i ++ slotFlowWrites i).contains r

/-- The operand of an LDA right behind `i`, read in program order: on the state that `i` leaves, with every access of `i` made
(20 R130), and without any effect of the read, which the LDA makes itself in its turn. None where `i` or the read waits. -/
def State.readBehind (s : State) (i : Instr) (o : Src Reg) : Option Word :=
  match exec i s with
  | .next t =>
      if t.waiting.isSome then none
      else match t.sequenced.sourceInt o with
        | .ok x _ => some x
        | _ => none
  | _ => none

/-- What an LDA right behind `i` has loaded before `i` reads its registers, if it has: not behind an instruction that empties
the pipeline (70 R720) nor behind another LDA, not where its decode is held back (R721), and not where what it reads is not
there yet, an access that is not ready or a register `i` may still write (DEDUCED, log 16). -/
def State.loadedEarly (s : State) (i : Instr) (d : Reg) (o : Src Reg) : Option Word :=
  if standardFlow i || isLda i || (s.busy.after i).hold (.lda d o) != 0 then none
  else match o with
    | .imm v => some (sext16 v)
    | .reg r => if settled i r then s.readBehind i o else none
    | .mem _ => s.readBehind i o

/-- The register that an LDPK, LDP or LDA right behind `i` has loaded before the execute phase of `i` (70 R729, 92 D56). LDP is
the word of LDI with an immediate and dst = DP (40 R229), which R721 and R729 name beside LDPK; its flags are written as those of
LDI, in its execute phase (DEDUCED, log 16). The target of a BcondAT in a register takes such a value also from its first slot
where the slot is then annulled, though 92 D51 leaves open whether that update happens (DESIGN CHOICE, log 16). So does an
instruction between which and the LDPK, LDP or LDA an interrupt is then taken: 60 R654 drops that follower undecoded, but R729 and
D56 do not speak of an interrupt there (DESIGN CHOICE, log 16). -/
def State.lookahead (s : State) (i : Instr) : Option (Reg × Word) :=
  match s.peek s.sequenced.pc with
  | some w => match decode w with
      | .ok (.ldpk v) | .ok (.ldp v) => some (.dp, zext16 v)
      | .ok (.lda d o) =>
          (({ s with early := none } : State).loadedEarly i d o).map fun x => (d, if d = .dp then x &&& 0xFFFF else x)
      | _ => none
  | none => none

/-- The state an instruction is executed on: with the register an LDPK, LDP or LDA behind it has loaded (70 R729), but for a standard
branch, call or return, behind which none is decoded when the registers are read; and with its traces in the fetch unit. -/
def State.ahead (s : State) (i : Instr) : State :=
  { s with early := if flushes i then none else s.lookahead i }.traces i

/-- A fetched instruction is executed, annulled, or refused its place (43 R374, R380, R385). -/
def State.issue (s : State) (i : Instr) : Host.Outcome State Fault Refusal :=
  match s.delay with
  | some d =>
      if slotForbids d.kind i then .fault .delaySlotRule
      else if d.annulled then .next ((s.ahead i).annul i)
      else exec i (s.ahead i)
  | none => if repeatForbids s i then .fault .repeatRule else exec i (s.ahead i)

/-- One instruction (92 D67): fetched when it is executed. A word that is no defined encoding leaves the core stuck until
reset (92 D41), in an annulled slot too, where R385 does not say what its decode does (DESIGN CHOICE, log 15). -/
def State.runMove (s : State) : Host.Outcome State Fault Refusal :=
  match s.fetchWord with
  | .ok w t =>
      match decode w with
      | .ok i => t.issue i
      | .error _ => .next { t with phase := .stuck }
  | .wait w => .next { s with waiting := some w }
  | .fault f => .fault f
  | .refused r => .refused r

/-- The core's own move when it takes no interrupt. -/
def State.cpuMove (s : State) : Host.Outcome State Fault Refusal :=
  match s.phase with
  | .reset => s.finish s.start
  | .boot b => s.finish (s.bootMove b)
  | .running => s.runMove
  | .idle | .idle2 | .stuck => .next s

/-- The entry of an acknowledged interrupt; while one of its accesses waits the core stalls in it. -/
def State.enter (s : State) (v : Nat) : Host.Outcome State Fault Refusal :=
  match s.serve v with
  | .ok _ t => .next t
  | .wait w => .next { s with entering := some v, waiting := some w }
  | .fault f => .fault f
  | .refused r => .refused r

/-- The CPU's turn: an entry that has begun goes on, else the interrupt it takes now, else its own move. -/
def State.cpuTurn (s : State) : Host.Outcome State Fault Refusal :=
  match s.entering, s.taken with
  | some v, _ => s.enter v
  | none, some v => (s.acknowledge v).enter v
  | none, none => s.cpuMove

/-- Another agent's turn. -/
def State.agentTurn (s : State) (i : Input) : Host.Outcome State Fault Refusal :=
  match s.move i with
  | .ok _ t => .next t
  | .wait _ => .next s
  | .fault f => .fault f
  | .refused r => .refused r

/-- One step on a state whose interrupt controller has looked at its inputs: it forwards what the DMA takes, then one agent
moves. -/
def State.turn (s : State) : Host.Outcome State Fault Refusal :=
  match s.inputs with
  | [] => s.forward.cpuTurn
  | .cpu :: rest => ({ s with inputs := rest } : State).forward.cpuTurn
  | i :: rest => ({ s with inputs := rest } : State).forward.agentTurn i

/-- The first word of on-chip RAM. -/
def ramBase : Word := 0x002FF800

/-- Where the interface places an instruction: the program counter while it points into RAM, else the start of RAM. -/
def State.fetchAddress (s : State) : Word :=
  if s.phase = .running ∧ region s.pins.romen s.pc = .ram then s.pc else ramBase

end Sys2Proof.Machine
end

