-- ==== Sys2Proof/Machine/Step.lean ====
section
/-! DEFINITION. One step of the machine, and the placing of an instruction word where the next step fetches it. -/

namespace Sys2Proof.Machine

/-- One step: the interrupt controller looks at its inputs, then one agent moves (92 D70). -/
def step (s : State) : Host.Outcome State Fault Refusal := s.sample.turn

/-- `s` running, with an instruction word placed at the program counter in on-chip RAM; the agenda empty, nothing waiting
and no delayed branch in flight (log 5). -/
def State.withFetchWord (s : State) (_nbits w : Nat) : State :=
  { s with
    pc := s.fetchAddress, phase := .running, delay := none, busy := ⟨0, 0, 0⟩, irHeld := false, waiting := none
    entering := none, inputs := []
    mem := Memory.writeWord s.mem s.fetchAddress (BitVec.ofNat 32 w) }

end Sys2Proof.Machine
end

