-- ==== Sys2Proof/Safety.lean ====
section
/-! DEFINITION. The terms the statements about this model are written in: what an instruction may change (registers,
status bits, memory words), and the invariant of a state. -/

namespace Sys2Proof.Machine

/-! ### What an instruction may change -/

/-- The stored contents of a register, without what a read adds (the free bits of ST, the pin levels in IIF). -/
def State.stored (s : State) : Reg → Ext
  | .r n => s.r[n]
  | .ar n => (s.ar[n]).setWidth 40
  | .dp => s.dp.setWidth 40
  | .ir0 => s.ir0.setWidth 40
  | .ir1 => s.ir1.setWidth 40
  | .bk => s.bk.setWidth 40
  | .sp => s.sp.setWidth 40
  | .st => s.st.setWidth 40
  | .die => s.die.setWidth 40
  | .iie => s.iie.setWidth 40
  | .iif => s.iif.setWidth 40
  | .rs => s.rs.setWidth 40
  | .re => s.re.setWidth 40
  | .rc => s.rc.setWidth 40

/-- The auxiliary register an indirect operand modifies (40 R211). -/
def indModifies (i : Ind) : List Reg :=
  match i.mode with
  | .plain | .indexed _ .preAdd | .indexed _ .preSub => []
  | _ => [.ar i.n]

/-- The auxiliary register a memory operand modifies. -/
def memModifies : Mem → List Reg
  | .dir _ => []
  | .ind i _ => indModifies i

/-- The auxiliary register a general source operand modifies. -/
def srcModifies {ρ : Type} : Src ρ → List Reg
  | .mem m => memModifies m
  | _ => []

/-- The auxiliary registers a three-operand pair modifies. -/
def triModifies {ρ : Type} : Tri ρ → List Reg
  | .indReg i _ => indModifies i
  | .regInd _ j => indModifies j
  | .indInd i j => indModifies i ++ indModifies j
  | _ => []

/-- The register operand of a destination field R0–R11. -/
def floatReg (n : FReg) : Reg := .r n

/-- The registers of the main file an instruction may write: its destinations, SP, R11 or the repeat registers where its
entry says so, and the auxiliary registers its operands modify. -/
def modifies : Instr → List Reg
  | .lda d o | .ldi d o | .ldiCond _ d o | .absi d o | .addc d o | .addi d o | .and d o | .andn d o
  | .ash d o | .lb _ d o | .lbu _ d o | .lh _ d o | .lhu _ d o | .lsh d o | .lwl _ d o | .lwr _ d o
  | .mb _ d o | .mh _ d o | .mpyi d o | .mpyshi d o | .mpyuhi d o | .negb d o | .negi d o | .not d o | .or d o
  | .subb d o | .subc d o | .subi d o | .subrb d o | .subri d o | .xor d o => d :: srcModifies o
  | .cmpi _ o | .tstb _ o => srcModifies o
  | .lde d o | .ldf d o | .ldfCond _ d o | .ldm d o | .absf d o | .addf d o | .float d o
  | .mpyf d o | .negf d o | .norm d o | .rcpf d o | .rnd d o | .rsqrf d o | .subf d o | .subrf d o
  | .toieee d o => floatReg d :: srcModifies o
  | .cmpf _ o => srcModifies o
  | .fix d o => d :: srcModifies o
  | .frieee d m | .ldfi d m => floatReg d :: memModifies m
  | .ldii d m | .sigi d m => d :: memModifies m
  | .stf _ m | .sti _ m | .stik _ m | .iack m | .stfi _ m | .stii _ m => memModifies m
  | .ldep d _ | .ldhi d _ | .rol d | .rolc d | .ror d | .rorc d => [d]
  | .ldp _ | .ldpk _ => [.dp]
  | .ldpe _ _ => []
  | .pop d => [d, .sp]
  | .popf d => [floatReg d, .sp]
  | .push _ | .pushf _ | .call _ | .callCond _ _ | .trapCond _ _ | .retiCond _ | .retiCondD _ | .retsCond _ => [.sp]
  | .addc3 d o | .addi3 d o | .and3 d o | .andn3 d o | .ash3 d o | .lsh3 d o | .mpyi3 d o | .mpyshi3 d o
  | .mpyuhi3 d o | .or3 d o | .subb3 d o | .subi3 d o | .xor3 d o => d :: triModifies o
  | .cmpi3 o | .tstb3 o => triModifies o
  | .addf3 d o | .mpyf3 d o | .subf3 d o => floatReg d :: triModifies o
  | .cmpf3 o => triModifies o
  | .bCond _ _ | .bCondAf _ _ | .bCondAt _ _ | .bCondD _ _ | .br _ | .brd _ | .idle | .idle2 | .swi => []
  | .dbCond n _ _ | .dbCondD n _ _ => [.ar n]
  | .laj _ | .lajCond _ _ | .latCond _ _ => [.r 11]
  | .nop (.reg _) => []
  | .nop (.ind i _) => indModifies i
  | .rptb _ | .rptbd _ => [.rs, .re]
  | .rpts o => [.rc, .rs, .re] ++ srcModifies o
  | .absfStf o | .absiSti o | .fixSti o | .floatStf o | .frieeeStf o | .ldfStf o | .ldiSti o | .negfStf o
  | .negiSti o | .notSti o | .toieeeStf o => regOf o.dst1 :: (indModifies o.dst2 ++ indModifies o.src2)
  | .addf3Stf o | .addi3Sti o | .and3Sti o | .ash3Sti o | .lsh3Sti o | .mpyf3Stf o | .mpyi3Sti o | .or3Sti o
  | .subf3Stf o | .subi3Sti o | .xor3Sti o => regOf o.dst1 :: (indModifies o.dst2 ++ indModifies o.src2)
  | .ldfLdf o | .ldiLdi o => [regOf o.dst1, regOf o.dst2] ++ (indModifies o.src1 ++ indModifies o.src2)
  | .stfStf o | .stiSti o => indModifies o.dst1 ++ indModifies o.dst2
  | .mpyf3Addf3 o | .mpyf3Subf3 o | .mpyi3Addi3 o | .mpyi3Subi3 o =>
      [floatReg (productReg o), floatReg (sumReg o)] ++ (indModifies o.src3 ++ indModifies o.src4)

/-- The registers whose update an annulled slot may leave behind (43 R385, 92 D51): the auxiliary registers its operands modify,
SP of a push or pop, DP of LDPK and LDP, the destination of LDA. -/
def slotUpdates : Instr → List Reg
  | .lda d o => d :: srcModifies o
  | .ldpk _ | .ldp _ => [.dp]
  | .push _ | .pushf _ | .pop _ | .popf _ => [.sp]
  | .ldi _ o | .ldiCond _ _ o | .absi _ o | .addc _ o | .addi _ o | .and _ o | .andn _ o | .ash _ o | .cmpi _ o
  | .lb _ _ o | .lbu _ _ o | .lh _ _ o | .lhu _ _ o | .lsh _ o | .lwl _ _ o | .lwr _ _ o | .mb _ _ o | .mh _ _ o
  | .mpyi _ o | .mpyshi _ o | .mpyuhi _ o | .negb _ o | .negi _ o | .not _ o | .or _ o | .subb _ o | .subc _ o
  | .subi _ o | .subrb _ o | .subri _ o | .tstb _ o | .xor _ o | .rpts o => srcModifies o
  | .lde _ o | .ldf _ o | .ldfCond _ _ o | .ldm _ o | .absf _ o | .addf _ o | .cmpf _ o | .fix _ o | .float _ o
  | .mpyf _ o | .negf _ o | .norm _ o | .rcpf _ o | .rnd _ o | .rsqrf _ o | .subf _ o | .subrf _ o
  | .toieee _ o => srcModifies o
  | .stf _ m | .sti _ m | .stik _ m | .frieee _ m | .iack m | .ldfi _ m | .ldii _ m | .sigi _ m | .stfi _ m
  | .stii _ m => memModifies m
  | .nop (.ind i _) => indModifies i
  | .addc3 _ o | .addi3 _ o | .and3 _ o | .andn3 _ o | .ash3 _ o | .cmpi3 o | .lsh3 _ o | .mpyi3 _ o | .mpyshi3 _ o
  | .mpyuhi3 _ o | .or3 _ o | .subb3 _ o | .subi3 _ o | .tstb3 o | .xor3 _ o => triModifies o
  | .addf3 _ o | .cmpf3 o | .mpyf3 _ o | .subf3 _ o => triModifies o
  | .absfStf o | .absiSti o | .fixSti o | .floatStf o | .frieeeStf o | .ldfStf o | .ldiSti o | .negfStf o
  | .negiSti o | .notSti o | .toieeeStf o => indModifies o.dst2 ++ indModifies o.src2
  | .addf3Stf o | .addi3Sti o | .and3Sti o | .ash3Sti o | .lsh3Sti o | .mpyf3Stf o | .mpyi3Sti o | .or3Sti o
  | .subf3Stf o | .subi3Sti o | .xor3Sti o => indModifies o.dst2 ++ indModifies o.src2
  | .ldfLdf o | .ldiLdi o => indModifies o.src1 ++ indModifies o.src2
  | .stfStf o | .stiSti o => indModifies o.dst1 ++ indModifies o.dst2
  | .mpyf3Addf3 o | .mpyf3Subf3 o | .mpyi3Addi3 o | .mpyi3Subi3 o => indModifies o.src3 ++ indModifies o.src4
  | _ => []

/-- The bits of ST an instruction may change when ST is not its destination (30 R191, 10 R29 and the flag list of each
entry): C 0, V 1, Z 2, N 3, UF 4, LV 5, LUF 6, RM 8, PCF 9, CF 10, GIE 13, PGIE 14. -/
def statusBits : Instr → List Nat
  | .ldi _ _ | .ldp _ | .ldf _ _ | .pop _ | .popf _ | .ldii _ _ | .ldfi _ _ | .sigi _ _ | .and _ _ | .andn _ _ | .or _ _
  | .xor _ _ | .not _ _ | .tstb _ _ | .and3 _ _ | .andn3 _ _ | .or3 _ _ | .xor3 _ _ | .tstb3 _ | .mpyshi _ _
  | .mpyuhi _ _ | .mpyshi3 _ _ | .mpyuhi3 _ _ | .lb _ _ _ | .lbu _ _ _ | .lh _ _ _ | .lhu _ _ _ | .lwl _ _ _
  | .lwr _ _ _ | .mb _ _ _ | .mh _ _ _ | .float _ _ | .and3Sti _ | .or3Sti _ | .xor3Sti _ | .notSti _
  | .floatStf _ => [1, 2, 3, 4]
  | .lsh _ _ | .lsh3 _ _ | .lsh3Sti _ | .rol _ | .rolc _ | .ror _ | .rorc _ => [0, 1, 2, 3, 4]
  | .absi _ _ | .mpyi _ _ | .mpyi3 _ _ | .absiSti _ | .mpyi3Sti _ | .mpyi3Addi3 _ | .mpyi3Subi3 _ | .fix _ _ | .fixSti _
  | .frieee _ _ | .frieeeStf _ | .toieee _ _ | .toieeeStf _ | .absf _ _ | .absfStf _ | .rsqrf _ _ => [1, 2, 3, 4, 5]
  | .addi _ _ | .addc _ _ | .subi _ _ | .subb _ _ | .subri _ _ | .subrb _ _ | .negi _ _ | .negb _ _ | .cmpi _ _
  | .ash _ _ | .addi3 _ _ | .addc3 _ _ | .subi3 _ _ | .subb3 _ _ | .cmpi3 _ | .ash3 _ _ | .addi3Sti _ | .subi3Sti _
  | .negiSti _ | .ash3Sti _ => [0, 1, 2, 3, 4, 5]
  | .addf _ _ | .subf _ _ | .subrf _ _ | .mpyf _ _ | .negf _ _ | .cmpf _ _ | .rnd _ _ | .rcpf _ _ | .addf3 _ _
  | .subf3 _ _ | .mpyf3 _ _ | .cmpf3 _ | .addf3Stf _ | .subf3Stf _ | .mpyf3Stf _ | .negfStf _ | .mpyf3Addf3 _
  | .mpyf3Subf3 _ => [1, 2, 3, 4, 5, 6]
  | .norm _ _ => [1, 2, 3, 4, 6]
  | .rptb _ | .rptbd _ | .rpts _ => [8]
  | .idle | .idle2 => [13]
  | .trapCond _ _ | .latCond _ _ => [9, 10, 13, 14]
  | .retiCond _ | .retiCondD _ => [10, 13]
  | .lda _ _ | .lde _ _ | .ldep _ _ | .ldfCond _ _ _ | .ldhi _ _ | .ldiCond _ _ _ | .ldm _ _ | .ldpe _ _ | .ldpk _
  | .push _ | .pushf _ | .stf _ _ | .sti _ _ | .stik _ _ | .subc _ _ | .bCond _ _ | .bCondAf _ _ | .bCondAt _ _
  | .bCondD _ _ | .br _ | .brd _ | .call _ | .callCond _ _ | .dbCond _ _ _ | .dbCondD _ _ _ | .iack _ | .laj _
  | .lajCond _ _ | .nop _ | .retsCond _ | .swi | .stfi _ _ | .stii _ _ | .ldfLdf _ | .ldfStf _ | .ldiLdi _ | .ldiSti _
  | .stfStf _ | .stiSti _ => []

/-- The words an instruction stores to, computed as its meaning computes them, on the sequenced state `t`. -/
def storeAddresses (t : State) : Instr → List Word
  | .stf _ m | .sti _ m | .stik _ m | .stfi _ m | .stii _ m => [t.memAddr m]
  | .push _ | .pushf _ | .call _ => [t.sp + 1]
  | .callCond c _ | .trapCond c _ => if t.cond c then [t.sp + 1] else []
  | .absfStf o | .absiSti o | .fixSti o | .floatStf o | .frieeeStf o | .ldfStf o | .ldiSti o | .negfStf o
  | .negiSti o | .notSti o | .toieeeStf o => [t.indAddr o.dst2 implied]
  | .addf3Stf o | .addi3Sti o | .and3Sti o | .ash3Sti o | .lsh3Sti o | .mpyf3Stf o | .mpyi3Sti o | .or3Sti o
  | .subf3Stf o | .subi3Sti o | .xor3Sti o => [t.indAddr o.dst2 implied]
  | .stfStf o | .stiSti o => [t.indAddr o.dst1 implied, t.indAddr o.dst2 implied]
  | _ => []

/-- Key `k` is a byte of one of some words. -/
def coveredBy (as : List Word) (k : Nat) : Bool := as.any fun a => decide (4 * a.toNat ≤ k) && decide (k < 4 * a.toNat + 4)

/-- The ranges of the local bus that are not reserved, whatever ROMEN is: the commutator, the devices and their memories (20
R106). -/
def localRanges : List (Nat × Nat) :=
  [(0x300000, 0x300001), (0x400000, 0x400012), (0x4001FF, 0x4001FF), (0x500000, 0x50000D), (0x501000, 0x501BFF),
    (0x600000, 0x60013D), (0x610000, 0x613FFF), (0x700000, 0x700067), (0x710000, 0x713FFF)]

/-- An address selects a strobe of an external bus (20 R104, R106, R121): the global bus; below 0010 0000h the local bus where
ROMEN is 0; above the on-chip addresses its ranges that are not reserved. -/
def selectsStrobe (romen : Bool) (a : Word) : Bool :=
  if 0x80000000 ≤ a.toNat then true
  else if a.toNat < 0x100000 then !romen
  else localRanges.any fun r => decide (r.1 ≤ a.toNat) && decide (a.toNat ≤ r.2)

/-! ### Values and flags the statements name -/

/-- The 32-bit value of an exact integer result: saturated where it does not fit and OVM is 1, else modulo 2^32 (41 R251). -/
def intValue (ovm : Bool) (r : Int) : Word :=
  if ovm = true ∧ (r < -2147483648 ∨ 2147483647 < r) then (if 0 < r then 0x7FFFFFFF else 0x80000000) else BitVec.ofInt 32 r

/-- A value with the flags of an exact integer result `r` (41 R251). -/
def intOutcome (ovm : Bool) (r : Int) (c : Option Bool) : Word × Flags :=
  (intValue ovm r, { v := decide (r < -2147483648 ∨ 2147483647 < r), uf := false, n := (intValue ovm r).msb
                     z := decide (intValue ovm r = 0), c := c, luf := false })

/-- A value with the flags of a result that cannot overflow: N its sign, Z whether it is 0. -/
def plainOutcome (v : Word) (c : Option Bool) : Word × Flags :=
  (v, { v := false, uf := false, n := v.msb, z := decide (v = 0), c := c, luf := false })

/-- The value of an expression on the 40-bit registers: an exact pair (mantissa, exponent) is finished (41 R253). -/
def floatOutcome (man exp : Int) : Ext × Flags := floatFinish ⟨man, exp⟩

/-! ### The invariant -/

/-- A port's FIFOs hold at most eight words (65 R510). -/
def Port.bounded (p : Port) : Bool := decide (p.inFifo.length ≤ 8) && decide (p.outFifo.length ≤ 8)

/-- The queues of the SoC devices: an ISIO of at most eight entries (66 R609), UART FIFOs within their depth (66 R622), and
an Ethernet receive FIFO of at most 4K words (66 R582). -/
def Devices.queued (d : Devices) : Prop :=
  d.mil.isio.length ≤ 8 ∧ d.uart.rx.length ≤ uartDepth ∧ d.uart.tx.length ≤ uartDepth ∧ d.ethernet.rxWords ≤ 4096

/-- What holds of the devices: interrupt pulses only where an internal interrupt has a flag (10 R44); the bus control words
without bits they do not have (20 R120); port FIFOs of at most eight words (65 R510); the other queues within their depths. -/
def Devices.Sound (d : Devices) : Prop :=
  d.pulses &&& 0x00FFFFFF = 0 ∧ d.globalControl &&& 0xC000000F = 0 ∧ d.localControl &&& 0xC000000F = 0
    ∧ (∀ k : Fin 6, (d.ports[k]).bounded = true) ∧ d.queued

/-- What holds of every reachable state: memory in canonical form; the vector tables on 512-word boundaries (10 R48);
the unwritable bits of ST, and CC, stored as 0 (10 R29); IIF bits 23–17 0 (10 R44); the devices sound; the LRU stack a
permutation of the four segments (20 R125). -/
def State.Inv (s : State) : Prop :=
  Memory.wf s.mem = true ∧ s.ivtp &&& 0x1FF = 0 ∧ s.tvtp &&& 0x1FF = 0 ∧ s.st &&& ~~~stWritable = 0
    ∧ s.iif &&& 0x00FE0000 = 0 ∧ s.dev.Sound ∧ s.cache.lru.Perm [0, 1, 2, 3]

end Sys2Proof.Machine
end

