-- ==== Sys2Proof/Certificates/Slice0/Obligations.lean ====
section
/-! DEFINITION. The statements for the provers. Rules are those of spec/. A meaning starts from `s.sequenced`, the state
after the program counter and the repeat registers have advanced; a hypothesis such as
`s.sequenced.sourceInt src = .ok x u` says that the operand can be read (it is a register, an immediate, or a word whose
access is ready), that its value is x, and that u is the state with the auxiliary register of the operand updated.
`u.result dst (v, f)` is u with v in dst and the flags f where dst lets them be written (`Obligations.IntegerResultWritten`). -/

open Sys2Proof Sys2Proof.Machine

/-! ### Encoding -/

/-- Decoding an encoded well-formed instruction gives it back (30 R195). -/
def Obligations.DecodeOfEncode : Prop := ∀ i : Instr, i.wellFormed = true → decode (encode i) = .ok i

/-- What the decoder accepts is well formed: only LDA with a listed destination, no immediate form of a floating-point
three-operand instruction, LDP told from LDI (40 R220, R229; 30 R179). -/
def Obligations.DecodedIsWellFormed : Prop := ∀ (w : Word) (i : Instr), decode w = .ok i → i.wellFormed = true

/-- Words written out from the encodings of spec/ decode to their instructions; two words that are no encoding do not. -/
def Obligations.DecodedWords : Prop :=
  decode 0b00001000011000010000000000000101 = .ok (.ldi (.r 1) (.imm 5))
    ∧ decode 0b00000010000000010000000000000010 = .ok (.addi (.r 1) (.reg (.r 2)))
    ∧ decode 0b01100010000000000000000000010000 = .ok (.call 16)
    ∧ decode 0b01111000000000000000000000000000 = .ok (.retiCond .u)
    ∧ decode 0b01110100000000000000000000000111 = .ok (.trapCond .u 7)
    ∧ decode 0b01101010000001010000000000000011 = .ok (.bCond .eq (.rel 3))
    ∧ decode 0b01101000000010110000000000000000 = .error .undefinedCondition
    ∧ decode 0b01101100000000000000000000100000 = .error .nonzeroField

/-- The twenty condition codes: which code each condition has and when it is true; the other codes are undefined (30 R190). -/
def Obligations.ConditionCodes : Prop :=
  ∀ s : State,
    let C := s.st.getLsbD 0
    let V := s.st.getLsbD 1
    let Z := s.st.getLsbD 2
    let N := s.st.getLsbD 3
    let UF := s.st.getLsbD 4
    let LV := s.st.getLsbD 5
    let LUF := s.st.getLsbD 6
    (condOfCode 0b00000 = .ok .u ∧ s.cond .u = true) ∧ (condOfCode 0b00001 = .ok .lo ∧ s.cond .lo = C)
      ∧ (condOfCode 0b00010 = .ok .ls ∧ s.cond .ls = (C || Z)) ∧ (condOfCode 0b00011 = .ok .hi ∧ s.cond .hi = (!C && !Z))
      ∧ (condOfCode 0b00100 = .ok .hs ∧ s.cond .hs = !C) ∧ (condOfCode 0b00101 = .ok .eq ∧ s.cond .eq = Z)
      ∧ (condOfCode 0b00110 = .ok .ne ∧ s.cond .ne = !Z) ∧ (condOfCode 0b00111 = .ok .lt ∧ s.cond .lt = N)
      ∧ (condOfCode 0b01000 = .ok .le ∧ s.cond .le = (N || Z)) ∧ (condOfCode 0b01001 = .ok .gt ∧ s.cond .gt = (!N && !Z))
      ∧ (condOfCode 0b01010 = .ok .ge ∧ s.cond .ge = !N) ∧ (condOfCode 0b01100 = .ok .nv ∧ s.cond .nv = !V)
      ∧ (condOfCode 0b01101 = .ok .v ∧ s.cond .v = V) ∧ (condOfCode 0b01110 = .ok .nuf ∧ s.cond .nuf = !UF)
      ∧ (condOfCode 0b01111 = .ok .uf ∧ s.cond .uf = UF) ∧ (condOfCode 0b10000 = .ok .nlv ∧ s.cond .nlv = !LV)
      ∧ (condOfCode 0b10001 = .ok .lv ∧ s.cond .lv = LV) ∧ (condOfCode 0b10010 = .ok .nluf ∧ s.cond .nluf = !LUF)
      ∧ (condOfCode 0b10011 = .ok .luf ∧ s.cond .luf = LUF) ∧ (condOfCode 0b10100 = .ok .zuf ∧ s.cond .zuf = (Z || UF))
      ∧ ∀ c : BitVec 5, c = 0b01011 ∨ 0b10101 ≤ c.toNat → condOfCode c = .error .undefinedCondition

/-! ### Reset and the invariant -/

/-- What reset writes into the CPU registers (70 R702): IIE, IIF, DIE, IVTP, TVTP 0, ST 0400h; as they read, IIF shows the
pin levels in its FLAG bits. -/
def Obligations.ResetRegisters : Prop :=
  State.reset.iie = 0 ∧ State.reset.iif = 0 ∧ State.reset.die = 0 ∧ State.reset.ivtp = 0 ∧ State.reset.tvtp = 0
    ∧ State.reset.st = 0x400
    ∧ ∀ p : Pins, ({ State.reset with pins := p } : State).get .iif
        = putBit (putBit (putBit (putBit 0 2 (p.iiof.getLsbD 0)) 6 (p.iiof.getLsbD 1)) 10 (p.iiof.getLsbD 2)) 14
            (p.iiof.getLsbD 3)

/-- The state after reset meets the invariant. -/
def Obligations.ResetInvariant : Prop := State.reset.Inv

/-- Every step keeps the invariant: memory canonical, the vector tables on 512-word boundaries, the unwritable bits of ST 0,
the fields of IIF that do not exist 0, the FIFOs of the devices within their depths (the UART's a free one,
66 R622, log 34; the Ethernet receive FIFO of 4K words, log 36), the LRU stack a permutation. -/
def Obligations.StepKeepsInvariant : Prop := ∀ s t : State, s.Inv → step s = .next t → t.Inv

/-! ### A step runs the decoded instruction -/

/-- On a core that runs, is in no interrupt entry, takes no interrupt and whose turn it is, a step is `exec` of the instruction
that the fetched word decodes to, fetched when it is executed (D67, log 17), on the state the fetch leaves. That state has the
register that an LDPK, LDP or LDA behind the instruction has loaded (70 R729, D56, log 16), but none behind a branch, call, trap or
return without slots, which drops what was fetched behind it. Besides it differs in the note of register conflicts, and in the
traces of the fetches behind the instruction that are dropped or made again (70 R720, R721), none where those words are on the
chip (log 17, the model's reading in part). In a delay slot the same, or, where the slots are annulled, the
annulment of the instruction. Outside RPTS a word in on-chip RAM is fetched as it stands there, and kept in IR. -/
def Obligations.StepRunsDecoded : Prop :=
  (∀ (s t : State) (rest : List Input) (w : Word) (i : Instr),
      let x := ({ s.sample with inputs := rest } : State).forward
      s.phase = .running → s.entering = none → x.taken = none →
      (s.inputs = [] ∧ rest = [] ∨ s.inputs = .cpu :: rest) → x.fetchWord = .ok w t → decode w = .ok i →
      (t.delay = none → repeatForbids t i = false → step s = exec i (t.ahead i))
        ∧ ∀ d, t.delay = some d → slotForbids d.kind i = false →
            (d.annulled = false → step s = exec i (t.ahead i)) ∧ (d.annulled = true → step s = .next ((t.ahead i).annul i)))
    ∧ (∀ s : State, region s.pins.romen s.pc = .ram → (s.repeatMode && s.repeatSingle && s.irHeld) = false →
        s.fetchWord = .ok (Memory.readWord s.mem s.pc) { s with ir := Memory.readWord s.mem s.pc })
    ∧ (∀ (s : State) (i : Instr), standardFlow i = false →
        (s.busy.hold i = 0 ∨ 0x100000 ≤ s.sequenced.pc.toNat ∧ s.sequenced.pc.toNat < 0x300000) →
        ∃ b, s.ahead i = { s with early := if flushes i = true then none else s.lookahead i, busy := b })
    ∧ ∀ (s : State) (i : Instr), standardFlow i = true → 0x100000 ≤ (s.pc + 1).toNat → (s.pc + 1).toNat < 0x300000 →
        (s.busy.hold i = 0 ∨ 0x100000 ≤ s.sequenced.pc.toNat ∧ s.sequenced.pc.toNat < 0x300000) →
        ∃ b, s.ahead i = { s with early := if flushes i = true then none else s.lookahead i, busy := b }

/-- A word that is no defined encoding leaves the core stuck until reset, the spec's decision for an encoding to which the
source gives no effect (92 D41; log 11); SWI, whose emulation interrupt the source does not describe, is treated alike (43
R369, 92 D63). A stuck core stays stuck and keeps its registers and memory, but for IIF, whose flags
the interrupt controller still sets; only a reset ends it, whatever else moves. -/
def Obligations.UndefinedEncodingStops : Prop :=
  (∀ (s t : State) (w : Word) (e : Reject), s.inputs = [] → s.phase = .running → s.entering = none →
      s.sample.forward.taken = none → s.sample.forward.fetchWord = .ok w t → decode w = .error e →
      step s = .next { t with phase := .stuck })
    ∧ encode .swi = 0x66000000 ∧ decode 0x66000000 = .ok .swi
    ∧ (∀ s, exec .swi s = .next { s with phase := .stuck })
    ∧ (∀ s : State, s.phase = .stuck → s.entering = none → s.inputs = [] →
        ∃ t, step s = .next t ∧ t.phase = .stuck ∧ t.entering = none ∧ t.pc = s.pc ∧ t.r = s.r ∧ t.ar = s.ar ∧ t.dp = s.dp
          ∧ t.ir0 = s.ir0 ∧ t.ir1 = s.ir1 ∧ t.bk = s.bk ∧ t.sp = s.sp ∧ t.st = s.st ∧ t.die = s.die ∧ t.iie = s.iie
          ∧ t.rs = s.rs ∧ t.re = s.re ∧ t.rc = s.rc ∧ t.ivtp = s.ivtp ∧ t.tvtp = s.tvtp ∧ t.mem = s.mem)
    ∧ ∀ (s t : State), s.phase = .stuck → s.entering = none →
        (∀ (romen : Bool) (loc : BitVec 2) (rest : List Input), s.inputs ≠ .reset romen loc :: rest) →
        step s = .next t → t.phase = .stuck

/-! ### Sequencing -/

/-- The program counter after a fetch: the next word, but for the end of a repeated block, where it goes back to RS while
the decremented RC is not negative, and for RPTS, which stays on its instruction (43 R370). -/
def Obligations.RepeatAlgorithm : Prop :=
  ∀ s : State, s.delay = none →
    (s.repeatMode = false → s.sequenced.pc = s.pc + 1 ∧ s.sequenced.rc = s.rc ∧ s.sequenced.st = s.st)
      ∧ (s.repeatMode = true → s.repeatSingle = false →
          (s.pc ≠ s.re → s.sequenced.pc = s.pc + 1 ∧ s.sequenced.rc = s.rc ∧ s.sequenced.repeatMode = true)
            ∧ (s.pc = s.re → (s.rc - 1).msb = false →
                s.sequenced.pc = s.rs ∧ s.sequenced.rc = s.rc - 1 ∧ s.sequenced.repeatMode = true)
            ∧ (s.pc = s.re → (s.rc - 1).msb = true →
                s.sequenced.pc = s.pc + 1 ∧ s.sequenced.repeatMode = false ∧ (s.rs ≠ s.re → s.sequenced.rc = 0)))
      ∧ (s.repeatMode = true → s.repeatSingle = true →
          ((s.rc - 1).msb = false →
              s.sequenced.pc = s.pc ∧ s.sequenced.rc = s.rc - 1 ∧ s.sequenced.repeatMode = true
                ∧ s.sequenced.irHeld = true)
            ∧ ((s.rc - 1).msb = true →
                s.sequenced.pc = s.pc + 1 ∧ s.sequenced.repeatMode = false ∧ s.sequenced.repeatSingle = false))

/-- Under RPTS an instruction that changes neither the repeat registers nor the flow is issued RC + 1 times: k of them leave
the program counter in place for every k up to RC, and the next one moves on and ends the repeat (43 R370, R372). -/
def Obligations.RepeatCount : Prop :=
  ∀ s : State, s.delay = none → s.repeatMode = true → s.repeatSingle = true → s.rc.msb = false →
    (∀ k, k ≤ s.rc.toNat →
        (State.sequenced^[k] s).pc = s.pc ∧ (State.sequenced^[k] s).rc.toNat = s.rc.toNat - k
          ∧ (State.sequenced^[k] s).repeatMode = true)
      ∧ (State.sequenced^[s.rc.toNat + 1] s).pc = s.pc + 1
      ∧ (State.sequenced^[s.rc.toNat + 1] s).repeatMode = false

/-- The three instructions behind a delayed branch are issued from successive addresses, and then the program continues at
its target (43 R380). The repeat comparison does not apply to them: 43 R373 says so of RPTBD, for the other delayed branches
it is the model's reading (log 14). -/
def Obligations.DelaySlots : Prop :=
  ∀ (s : State) (dest : Word) (a : Bool) (k : DelayKind),
    let t := s.delayed dest a k
    t.pc = s.pc ∧ t.sequenced.pc = s.pc + 1 ∧ t.sequenced.sequenced.pc = s.pc + 2
      ∧ t.sequenced.sequenced.sequenced.pc = dest ∧ t.sequenced.sequenced.sequenced.delay = none
      ∧ t.sequenced.sequenced.sequenced.st = s.st ∧ t.sequenced.sequenced.sequenced.rc = s.rc

/-! ### Frames -/

/-- Every register but ST that an instruction does not list as modified keeps its contents, all 40 bits; RC may also be
counted down by the repeat mode. -/
def Obligations.RegisterFrame : Prop :=
  ∀ (i : Instr) (s u : State) (r : Reg), exec i s = .next u → r ∉ modifies i → r ≠ .st →
    (r = .rc → s.repeatMode = false) → u.stored r = s.stored r

/-- Every bit of ST that an instruction does not list as changed is unchanged, unless ST is its destination; the end of a
repeat clears RM. -/
def Obligations.StatusFrame : Prop :=
  ∀ (i : Instr) (s u : State) (b : Nat), exec i s = .next u → Reg.st ∉ modifies i → b ∉ statusBits i →
    (b = 8 → s.repeatMode = false) → u.st.getLsbD b = s.st.getLsbD b

/-- Every byte of memory outside the words an instruction stores to is unchanged; the words are computed as the meaning
computes them, on the sequenced state. An instruction that stores nothing lists no word. -/
def Obligations.MemoryFrame : Prop :=
  ∀ (i : Instr) (s u : State) (k : Nat), exec i s = .next u → Memory.wf s.mem = true →
    coveredBy (storeAddresses s.sequenced i) k = false → Memory.get u.mem k = Memory.get s.mem k

/-- The vector table pointers change only by LDPE; the pins, the board, the ROM, the agenda, an interrupt entry, the DMA's held access,
the register conflicts, what the interrupt controller remembers and IR by no meaning of an instruction; the requests a write of
IIF leaves behind only where IIF is a destination; the phase only by IDLE, IDLE2 and SWI; the cache only where ST is a
destination; the lock signals only by the interlocked instructions; IACK# only by IACK. -/
def Obligations.SpecialFrame : Prop :=
  ∀ (i : Instr) (s u : State), exec i s = .next u →
    ((∀ x r, i ≠ .ldpe x r) → u.ivtp = s.ivtp ∧ u.tvtp = s.tvtp)
      ∧ (u.pins = s.pins ∧ u.board = s.board ∧ u.romImage = s.romImage ∧ u.inputs = s.inputs ∧ u.entering = s.entering
          ∧ u.dmaHeld = s.dmaHeld ∧ u.busy = s.busy ∧ u.nmiLast = s.nmiLast ∧ u.iiofLast = s.iiofLast ∧ u.levelAck = s.levelAck ∧ u.levelRaise = s.levelRaise
          ∧ u.ir = s.ir)
      ∧ (Reg.iif ∉ modifies i → u.ackPending = s.ackPending ∧ u.raisePending = s.raisePending ∧ u.claimed = s.claimed)
      ∧ (i ≠ .idle → i ≠ .idle2 → i ≠ .swi → u.phase = s.phase)
      ∧ (Reg.st ∉ modifies i → u.cache = s.cache)
      ∧ ((∀ d m, i ≠ .ldfi d m) → (∀ d m, i ≠ .ldii d m) → (∀ d m, i ≠ .sigi d m) → (∀ d m, i ≠ .stfi d m) →
          (∀ d m, i ≠ .stii d m) → u.lockGlobal = s.lockGlobal ∧ u.lockLocal = s.lockLocal)
      ∧ ((∀ m, i ≠ .iack m) → u.iack = s.iack)

/-! ### Operands -/

/-- Direct addressing: DP joined with the sixteen bits of the word; DP is not changed (40 R205). -/
def Obligations.DirectAddress : Prop :=
  ∀ (s : State) (e : BitVec 16),
    s.memAddr (.dir e) = (s.dp.setWidth 32 <<< 16) ||| e.setWidth 32 ∧ s.memUpdate (.dir e) = s

/-- The address of every indirect mode and the new ARn (40 R211, R212): x is the displacement, IR0 or IR1; the pre-modes
use the sum, the post-modes the old register. The circular modes take x as an unsigned number and evaluate the formula of R215
once, whatever the inputs (D45; log 27, the model's choice); the bit-reversed one adds over all 32 bits (D42, R216). -/
def Obligations.IndirectModes : Prop :=
  ∀ (s : State) (n : Fin 8) (ix : Index) (disp : Word),
    let a := s.ar[n]
    let x := match ix with | .disp => disp | .ir0 => s.ir0 | .ir1 => s.ir1
    let arAfter := fun m : Mode => (s.indUpdate ⟨m, n⟩ disp).ar[n]
    (s.indAddr ⟨.indexed ix .preAdd, n⟩ disp = a + x ∧ arAfter (.indexed ix .preAdd) = a)
      ∧ (s.indAddr ⟨.indexed ix .preSub, n⟩ disp = a - x ∧ arAfter (.indexed ix .preSub) = a)
      ∧ (s.indAddr ⟨.indexed ix .preAddModify, n⟩ disp = a + x ∧ arAfter (.indexed ix .preAddModify) = a + x)
      ∧ (s.indAddr ⟨.indexed ix .preSubModify, n⟩ disp = a - x ∧ arAfter (.indexed ix .preSubModify) = a - x)
      ∧ (s.indAddr ⟨.indexed ix .postAdd, n⟩ disp = a ∧ arAfter (.indexed ix .postAdd) = a + x)
      ∧ (s.indAddr ⟨.indexed ix .postSub, n⟩ disp = a ∧ arAfter (.indexed ix .postSub) = a - x)
      ∧ (s.indAddr ⟨.indexed ix .postAddCirc, n⟩ disp = a
          ∧ arAfter (.indexed ix .postAddCirc) = circular s.draws a s.bk x.toNat)
      ∧ (s.indAddr ⟨.indexed ix .postSubCirc, n⟩ disp = a
          ∧ arAfter (.indexed ix .postSubCirc) = circular s.draws a s.bk (-(x.toNat : Int)))
      ∧ (s.indAddr ⟨.plain, n⟩ disp = a ∧ arAfter .plain = a)
      ∧ (s.indAddr ⟨.bitRev, n⟩ disp = a ∧ arAfter .bitRev = reverseAdd a s.ir0)

/-- A circular step from inside the buffer, no longer than the buffer, stays inside it: the upper bits of ARn are kept, and
the index moves by the step modulo the buffer length, which BK holds in its low sixteen bits, the others 0 (40 R215). -/
def Obligations.CircularStaysInBuffer : Prop :=
  ∀ (draw : Nat) (a bk : Word) (step : Int) (k : Nat),
    let size := bk.toNat
    size < 2 ^ 16 → 2 ^ k ≤ size → size < 2 ^ (k + 1) → a.toNat % 2 ^ (k + 1) < size → -(size : Int) ≤ step → step ≤ size →
      (circular draw a bk step).toNat / 2 ^ (k + 1) = a.toNat / 2 ^ (k + 1)
        ∧ ((circular draw a bk step).toNat % 2 ^ (k + 1) : Int) = ((a.toNat % 2 ^ (k + 1) : Nat) + step) % size

/-- The reverse-carry sum, bit by bit from the top: each bit is the exclusive or of the operand bits and the carry, the carry
into the next lower bit their majority (40 R216); adding IR0 = 0 changes nothing. -/
def Obligations.ReverseCarrySum : Prop :=
  ∃ carry : Word → Word → Nat → Bool,
    (∀ a b, carry a b 31 = false)
      ∧ (∀ a b i, i < 31 → carry a b i = ((a.getLsbD (i + 1) && b.getLsbD (i + 1))
          || (a.getLsbD (i + 1) && carry a b (i + 1)) || (b.getLsbD (i + 1) && carry a b (i + 1))))
      ∧ (∀ a b i, i < 32 → (reverseAdd a b).getLsbD i = (a.getLsbD i ^^ b.getLsbD i ^^ carry a b i))
      ∧ ∀ a, reverseAdd a 0 = a

/-- Two indirect operands: both addresses come from the registers before the instruction, and where both name one ARn and
modify it, the modification of the field in bits 15–8 is kept: 40 R213 says so of one class of instructions, for the others
the spec decides it (D44; log 28). -/
def Obligations.TwoIndirectOperands : Prop :=
  ∀ (s : State) (hi lo : Ind),
    (∀ v, s.indNew hi implied = some v → (s.indUpdate2 hi lo).ar[hi.n] = v)
      ∧ (∀ v, s.indNew lo implied = some v → (s.indNew hi implied = none ∨ hi.n ≠ lo.n) →
          (s.indUpdate2 hi lo).ar[lo.n] = v)
      ∧ (∀ n : Fin 8, (n ≠ hi.n ∨ s.indNew hi implied = none) → (n ≠ lo.n ∨ s.indNew lo implied = none) →
          (s.indUpdate2 hi lo).ar[n] = s.ar[n])
      ∧ ∀ x y t, region s.pins.romen (s.indAddr hi implied) = .ram → region s.pins.romen (s.indAddr lo implied) = .ram →
          s.fetchInd2 hi lo = .ok (x, y) t →
          x = Memory.readWord s.mem (s.indAddr hi implied) ∧ y = Memory.readWord s.mem (s.indAddr lo implied)
            ∧ t = s.indUpdate2 hi lo

/-- The source operand of the general group (40 R200, 30 R163): a register's bits 31–0 or all 40 bits of R0–R11; the
immediate sign- or zero-extended, or a short float, whose zero becomes the extended zero; a word of memory, here of on-chip
RAM, for floating point widened with eight zero fraction bits. The address is formed from the old registers and the auxiliary
register is updated once. A register's bits 31–0 are those it holds: of R0–R11 the mantissa, of DP its sixteen bits, of ST the bits
that 10 R29 defines, of IIF all but the four FLAG bits; of AR0–AR7, DP, IR0, IR1, BK and SP where no LDPK, LDP or LDA right behind
has loaded them already (70 R729; log 16). -/
def Obligations.GeneralSource : Prop :=
  ∀ s : State,
    (∀ r, s.sourceInt (.reg r) = .ok (s.get r) s ∧ s.sourceUint (.reg r) = .ok (s.get r) s)
      ∧ (∀ n, s.get (.r n) = (s.r[n]).setWidth 32)
      ∧ (s.early = none → (∀ n, s.get (.ar n) = s.ar[n]) ∧ s.get .dp = s.dp.setWidth 32 ∧ s.get .ir0 = s.ir0 ∧ s.get .ir1 = s.ir1
          ∧ s.get .bk = s.bk ∧ s.get .sp = s.sp)
      ∧ s.get .die = s.die ∧ s.get .iie = s.iie ∧ s.get .rs = s.rs ∧ s.get .re = s.re ∧ s.get .rc = s.rc
      ∧ (∀ b, b < 16 ∨ b = 18 ∨ b = 19 → (s.get .st).getLsbD b = s.st.getLsbD b)
      ∧ (∀ b, b ∉ [2, 6, 10, 14] → (s.get .iif).getLsbD b = s.iif.getLsbD b)
      ∧ (∀ v, s.sourceInt (.imm v) = .ok (v.signExtend 32) s ∧ s.sourceUint (.imm v) = .ok (v.setWidth 32) s)
      ∧ (∀ n : FReg, s.sourceFloat (.reg n) = .ok s.r[n] s)
      ∧ (∀ v : BitVec 16, s.sourceFloat (.imm v) = .ok
          (if v.extractLsb' 12 4 = 8 then 0x8000000000
           else (v.extractLsb' 12 4).signExtend 8 ++ v.extractLsb' 0 12 ++ (0 : BitVec 20)) s)
      ∧ ∀ m, region s.pins.romen (s.memAddr m) = .ram →
          s.sourceInt (.mem m) = .ok (Memory.readWord s.mem (s.memAddr m)) (s.memUpdate m)
            ∧ s.sourceUint (.mem m) = .ok (Memory.readWord s.mem (s.memAddr m)) (s.memUpdate m)
            ∧ s.sourceFloat (.mem m) = .ok (Memory.readWord s.mem (s.memAddr m) ++ (0 : BitVec 8)) (s.memUpdate m)

/-! ### Registers and flags -/

/-- Which results write the flags and what they write (10 R36, 30 R191, R192): for R0–R11, and for another register but ST
when SC = 1, C if the instruction gives one, V, Z, N, UF, and LV and LUF only ever set; otherwise no bit of ST. An integer
written to R0–R11 keeps the exponent byte. A floating-point result writes all 40 bits of its register, and the flags whatever SC is;
a compare or test writes the flags whatever SC is, and nothing else. -/
def Obligations.IntegerResultWritten : Prop :=
  let written := fun (old new : Word) (f : Flags) =>
    new.getLsbD 0 = f.c.getD (old.getLsbD 0) ∧ new.getLsbD 1 = f.v ∧ new.getLsbD 2 = f.z ∧ new.getLsbD 3 = f.n
      ∧ new.getLsbD 4 = f.uf ∧ new.getLsbD 5 = (old.getLsbD 5 || f.v) ∧ new.getLsbD 6 = (old.getLsbD 6 || f.luf)
      ∧ ∀ b, 7 ≤ b → new.getLsbD b = old.getLsbD b
  (∀ (u : State) (f : Flags), ∃ st, written u.st st f ∧ u.setFlags f = { u with st := st }
      ∧ ∀ (n : FReg) (v : Ext), u.resultF n (v, f) = { u with st := st, r := u.r.set n v })
  ∧ ∀ (u : State) (d : Reg) (v : Word) (f : Flags),
    let t := u.result d (v, f)
    let on := (∃ n, d = .r n) ∨ (d ≠ .st ∧ u.st.getLsbD 15 = true)
    (on → written u.st t.st f)
      ∧ (¬on → d ≠ .st → t.st = u.st)
      ∧ (d = .st → t.st = v &&& 0x000CEFFF)
      ∧ (∀ n, d = .r n → t.r[n] = (u.r[n]).extractLsb' 32 8 ++ v)
      ∧ (d ≠ .st → d ≠ .iif → d ≠ .dp → (t.stored d).setWidth 32 = v)
      ∧ (d = .dp → t.dp = v.setWidth 16)

/-- A write of IIF changes FUNC, TYPE and EIIOF of every pin and bits 31–24; FLAG it stores only for an output or edge pin.
The FLAG of an input pin shows the pin as before. That of a level pin is not stored: written as 1 it is a request in the next
step, written as 0 an acknowledge (log 19, the model's reading). The NMI bit is never changed, and bits 23–17 stay 0 (10 R44).
A request that the DMA has taken and the CPU may take too is remembered as claimed, and a 0 in bits 31–24 or a FLAG takes it
back: the model's reading of 60 R659, which says in part only how the two share a request (log 20). A write of IVTP or TVTP
does not store bits 8–0, so that the table stays on a 512-word boundary (10 R48, U2; log 22, a choice that the spec allows). -/
def Obligations.ControlRegisterWrites : Prop :=
  ∀ (s : State) (v : Word),
    let t := s.put .iif v
    (∀ x : Fin 4,
        let func := v.getLsbD (4 * x.val)
        let type := v.getLsbD (4 * x.val + 1)
        let flag := v.getLsbD (4 * x.val + 2)
        t.iif.getLsbD (4 * x.val) = func ∧ t.iif.getLsbD (4 * x.val + 1) = type
          ∧ t.iif.getLsbD (4 * x.val + 3) = v.getLsbD (4 * x.val + 3)
          ∧ (func ≠ type → t.iif.getLsbD (4 * x.val + 2) = flag ∧ (t.get .iif).getLsbD (4 * x.val + 2) = flag)
          ∧ (func = type → t.iif.getLsbD (4 * x.val + 2) = false)
          ∧ (func = false → type = false → connectedTo s.dev.rc s.pins.core2 (iiofDevice x) = false →
              (t.get .iif).getLsbD (4 * x.val + 2) = s.pins.iiof.getLsbD x.val)
          ∧ t.raisePending.getLsbD x.val = (s.raisePending.getLsbD x.val || (func && type && flag))
          ∧ t.ackPending.getLsbD x.val = (s.ackPending.getLsbD x.val || (func && type && !flag)))
      ∧ t.iif.getLsbD 16 = s.iif.getLsbD 16
      ∧ (∀ b, 17 ≤ b → b ≤ 23 → t.iif.getLsbD b = false)
      ∧ (∀ b, 24 ≤ b → t.iif.getLsbD b = v.getLsbD b)
      ∧ t.claimed = s.claimed &&& v
      ∧ ∀ x, (s.putX x v).getX x = v &&& 0xFFFFFE00

/-! ### Load, store and stack -/

/-- LDI, LDP and LDF load and set N and Z; LDI and LDP by the 32-bit value, LDF by the sign and the zero exponent (40 R222,
R225, R229). -/
def Obligations.LoadsWithFlags : Prop :=
  ∀ s : State,
    (∀ dst src x u, s.sequenced.sourceInt src = .ok x u →
        exec (.ldi dst src) s = .next (u.result dst (plainOutcome x none)))
      ∧ (∀ v, exec (.ldp v) s = .next (s.sequenced.result .dp (plainOutcome (v.signExtend 32) none)))
      ∧ ∀ dst src x u, s.sequenced.sourceFloat src = .ok x u →
          exec (.ldf dst src) s = .next (u.resultF dst
            (x, { v := false, uf := false, luf := false, c := none
                  n := x.getLsbD 31 && decide (x.extractLsb' 32 8 ≠ 0x80), z := decide (x.extractLsb' 32 8 = 0x80) }))

/-- The loads that change no flag: LDA, LDE (the mantissa cleared with the zero exponent), LDM, LDHI, LDPK, LDEP and LDPE
(40 R220, R221, R224, R227, R228, R232, R233). LDA with one register as source and destination is not allowed (R220) and its
outcome not stated (U34): that it stops is the model's choice (log 12). LDIcond and LDFcond load only when their condition is
true (R223, R226); that they read their operand and update its auxiliary register also when it is false is the spec's decision
D55 (log 28). LDPK and LDP, and LDA of an immediate, act before the execute phase of the instruction in front of
them (70 R729, whose item (3) names all three; D56 for LDPK), which then reads the new value as a register operand. That the flags
of LDP wait for its execute phase is deduced (log 16). So does another LDA, whose value is the one it then loads, read behind every
access of that instruction; that it does where its decode is not held back, what it reads is ready and no register that
instruction may still write, and that a branch without slots or another LDA in front sees no such value, and RPTB and RPTS that of
LDPK and LDP, is the model's reading (log 16). No other instruction acts so early. -/
def Obligations.LoadsWithoutFlags : Prop :=
  ∀ s : State,
    (∀ dst src x u, src ≠ .reg dst → s.sequenced.sourceInt src = .ok x u → exec (.lda dst src) s = .next (u.put dst x))
      ∧ (∀ dst, exec (.lda dst (.reg dst)) s = .fault .ldaSameRegister)
      ∧ (∀ dst src x u, s.sequenced.sourceFloat src = .ok x u →
          exec (.lde dst src) s = .next (u.putF dst (x.extractLsb' 32 8
            ++ if x.extractLsb' 32 8 = 0x80 then 0 else (u.getF dst).extractLsb' 0 32)))
      ∧ (∀ dst n, exec (.ldm dst (.reg n)) s
          = .next (s.sequenced.putF dst ((s.sequenced.getF dst).extractLsb' 32 8 ++ (s.sequenced.getF n).extractLsb' 0 32)))
      ∧ (∀ dst m w u, s.sequenced.fetch .plain m = .ok w u →
          exec (.ldm dst (.mem m)) s = .next (u.putF dst ((u.getF dst).extractLsb' 32 8 ++ w)))
      ∧ (∀ dst v, exec (.ldm dst (.imm v)) s
          = .next (s.sequenced.putF dst ((s.sequenced.getF dst).extractLsb' 32 8 ++ v.extractLsb' 0 12 ++ (0 : BitVec 20))))
      ∧ (∀ dst v, exec (.ldhi dst v) s = .next (s.sequenced.put dst (v.setWidth 32 <<< 16)))
      ∧ (∀ v, exec (.ldpk v) s = .next { s.sequenced with dp := v })
      ∧ (∀ dst x, exec (.ldep dst x) s = .next (s.sequenced.put dst (s.sequenced.getX x)))
      ∧ (∀ x src, exec (.ldpe x src) s = .next (s.sequenced.putX x (s.sequenced.get src)))
      ∧ (∀ c dst src x u, s.sequenced.sourceInt src = .ok x u →
          exec (.ldiCond c dst src) s = .next (if s.sequenced.cond c = true then u.put dst x else u))
      ∧ (∀ c dst src x u, s.sequenced.sourceFloat src = .ok x u →
          exec (.ldfCond c dst src) s = .next (if s.sequenced.cond c = true then u.putF dst x else u))
      ∧ (∀ i : Instr, region s.pins.romen s.sequenced.pc = .ram →
          let next := decode (Memory.readWord s.mem s.sequenced.pc)
          (∀ v, next = .ok (.ldpk v) ∨ next = .ok (.ldp v) → s.lookahead i = some (.dp, v.setWidth 32))
            ∧ (∀ d v, next = .ok (.lda d (.imm v)) → d ≠ .dp → standardFlow i = false → (∀ e o, i ≠ .lda e o) →
                s.lookahead i = some (d, v.signExtend 32))
            ∧ (∀ d src t x u, next = .ok (.lda d src) → d ≠ .dp → standardFlow i = false → (∀ e o, i ≠ .lda e o) →
                (s.busy.after i).hold (.lda d src) = 0 → (∀ r, src = .reg r → settled i r = true) →
                exec i { s with early := none } = .next t → t.waiting = none → t.sequenced.sourceInt src = .ok x u →
                s.lookahead i = some (d, x))
            ∧ ((∀ v, next ≠ .ok (.ldpk v)) → (∀ v, next ≠ .ok (.ldp v)) → (∀ d o, next ≠ .ok (.lda d o)) →
                s.lookahead i = none))
      ∧ ∀ (d r : Reg) (v : Word), ldaDestination r = true →
          ({ s with early := some (d, v) } : State).get r = if r = d then v else (s.stored r).setWidth 32

/-- STI, STF and STIK write a register, the upper 32 bits of an extended register, or the sign-extended constant at the
address of the destination formed from the old registers, and update its auxiliary register (40 R236–R238). -/
def Obligations.Stores : Prop :=
  ∀ (s u : State) (m : Mem),
    (∀ src, memWrite .plain (s.sequenced.memAddr m) (s.sequenced.get src) (s.sequenced.memUpdate m) = .ok () u →
        exec (.sti src m) s = .next u)
      ∧ (∀ src, memWrite .plain (s.sequenced.memAddr m) ((s.sequenced.getF src).extractLsb' 8 32)
            (s.sequenced.memUpdate m) = .ok () u → exec (.stf src m) s = .next u)
      ∧ ∀ k : BitVec 5, memWrite .plain (s.sequenced.memAddr m) (k.signExtend 32) (s.sequenced.memUpdate m) = .ok () u →
          exec (.stik k m) s = .next u

/-- A word stored in on-chip RAM, or in ready external memory where the board has some, is there afterwards, and every other
word is as before (20 R110, R112). -/
def Obligations.StoredWordReadsBack : Prop :=
  ∀ (s u : State) (src : Reg) (m : Mem), Memory.wf s.mem = true →
    (region s.pins.romen (s.sequenced.memAddr m) = .ram
      ∨ region s.pins.romen (s.sequenced.memAddr m) = .global ∧ globalReady s.sequenced (s.sequenced.memAddr m) true = true
        ∧ s.populated (s.sequenced.memAddr m) = true) →
    exec (.sti src m) s = .next u →
    Memory.readWord u.mem (s.sequenced.memAddr m) = s.sequenced.get src
      ∧ ∀ a, a ≠ s.sequenced.memAddr m → Memory.readWord u.mem a = Memory.readWord s.mem a

/-- The read of an LDI or the write of an STI that is not ready leaves the state as it was, marked as waiting, to be tried
again (20 R123, 65 R513); the model's form of a stalled core (log 13). -/
def Obligations.WaitingAccess : Prop :=
  ∀ (s : State) (w : Wait) (m : Mem),
    (memRead .plain (s.sequenced.memAddr m) (s.sequenced.memUpdate m) = .wait w →
        ∀ dst, exec (.ldi dst (.mem m)) s = .next { s with waiting := some w })
      ∧ ∀ src, memWrite .plain (s.sequenced.memAddr m) (s.sequenced.get src) (s.sequenced.memUpdate m) = .wait w →
          exec (.sti src m) s = .next { s with waiting := some w }

/-- PUSH and PUSHF write at SP + 1; POP and POPF read at SP and then count SP down (40 R217, R230, R231, R234, R235). PUSH SP
stores the old SP, the spec's decision D62 (log 28); in POP SP the loaded value wins, the model's reading (log 28). -/
def Obligations.Stack : Prop :=
  ∀ s u : State,
    let t := s.sequenced
    (∀ src, memWrite .plain (t.sp + 1) (t.get src) { t with sp := t.sp + 1 } = .ok () u → exec (.push src) s = .next u)
      ∧ (∀ src, memWrite .plain (t.sp + 1) ((t.getF src).extractLsb' 8 32) { t with sp := t.sp + 1 } = .ok () u →
          exec (.pushf src) s = .next u)
      ∧ (∀ dst w, memRead .plain t.sp t = .ok w u →
          exec (.pop dst) s = .next (({ u with sp := u.sp - 1 } : State).result dst (plainOutcome w none)))
      ∧ ∀ dst w, memRead .plain t.sp t = .ok w u →
          exec (.popf dst) s = .next (({ u with sp := u.sp - 1 } : State).resultF dst (w ++ (0 : BitVec 8),
            { v := false, uf := false, luf := false, c := none
              n := w.getLsbD 23 && decide (w.extractLsb' 24 8 ≠ 0x80), z := decide (w.extractLsb' 24 8 = 0x80) }))

/-! ### Integer instructions -/

/-- The two-operand integer arithmetic (41 R251, R261, R263, R265, R270, R276, R277, R279, R281, R300, R301, R303, R304,
R306): the exact result, saturated or wrapped, V from the exact result, C the unsigned carry or borrow; d is the destination
before the instruction. ABSI lists N as 0; MPYSHI takes the high word, Z from all 64 bits; SUBC, one division step, changes
no flag; CMPI writes only flags, never saturated. -/
def Obligations.IntegerArithmetic : Prop :=
  ∀ (s u : State) (dst : Reg) (src : Src Reg) (x : Word), s.sequenced.sourceInt src = .ok x u →
    let d := s.sequenced.get dst
    let o := s.sequenced.st.getLsbD 7
    let c := s.sequenced.st.getLsbD 0
    exec (.addi dst src) s
        = .next (u.result dst (intOutcome o (d.toInt + x.toInt) (some (decide (2 ^ 32 ≤ d.toNat + x.toNat)))))
      ∧ exec (.addc dst src) s
        = .next (u.result dst (intOutcome o (d.toInt + x.toInt + c.toNat)
            (some (decide (2 ^ 32 ≤ d.toNat + x.toNat + c.toNat)))))
      ∧ exec (.subi dst src) s
        = .next (u.result dst (intOutcome o (d.toInt - x.toInt) (some (decide (d.toNat < x.toNat)))))
      ∧ exec (.subb dst src) s
        = .next (u.result dst (intOutcome o (d.toInt - x.toInt - c.toNat) (some (decide (d.toNat < x.toNat + c.toNat)))))
      ∧ exec (.subri dst src) s
        = .next (u.result dst (intOutcome o (x.toInt - d.toInt) (some (decide (x.toNat < d.toNat)))))
      ∧ exec (.subrb dst src) s
        = .next (u.result dst (intOutcome o (x.toInt - d.toInt - c.toNat) (some (decide (x.toNat < d.toNat + c.toNat)))))
      ∧ exec (.negi dst src) s = .next (u.result dst (intOutcome o (-x.toInt) (some (decide (0 < x.toNat)))))
      ∧ exec (.negb dst src) s
        = .next (u.result dst (intOutcome o (-x.toInt - c.toNat) (some (decide (0 < x.toNat + c.toNat)))))
      ∧ exec (.absi dst src) s
        = .next (u.result dst ((intOutcome o x.toInt.natAbs none).1, { (intOutcome o x.toInt.natAbs none).2 with n := false }))
      ∧ exec (.mpyi dst src) s = .next (u.result dst (intOutcome o (d.toInt * x.toInt) none))
      ∧ exec (.mpyshi dst src) s
        = .next (u.result dst (BitVec.ofInt 32 (d.toInt * x.toInt / 2 ^ 32),
            { v := false, uf := false, luf := false, c := none, n := decide (d.toInt * x.toInt < 0)
              z := decide (d.toInt * x.toInt = 0) }))
      ∧ exec (.subc dst src) s = .next (u.put dst
          (if x.toNat ≤ d.toNat then BitVec.ofNat 32 (2 * (d.toNat - x.toNat) + 1) else BitVec.ofNat 32 (2 * d.toNat)))
      ∧ exec (.cmpi dst src) s
        = .next (u.setFlags (intOutcome false (d.toInt - x.toInt) (some (decide (d.toNat < x.toNat)))).2)

/-- The logical instructions, bit by bit, C unchanged, an immediate zero-extended (41 R266, R267, R283, R284, R309), and
TSTB, which writes no register and always the flags (41 R308). MPYUHI likewise extends its immediate with zeros; its result is
the high word of the unsigned product, N = 0, Z from all 64 bits (41 R278). -/
def Obligations.Logic : Prop :=
  ∀ (s u : State) (dst : Reg) (src : Src Reg) (x : Word), s.sequenced.sourceUint src = .ok x u →
    let d := s.sequenced.get dst
    exec (.and dst src) s = .next (u.result dst (plainOutcome (d &&& x) none))
      ∧ exec (.andn dst src) s = .next (u.result dst (plainOutcome (d &&& ~~~x) none))
      ∧ exec (.or dst src) s = .next (u.result dst (plainOutcome (d ||| x) none))
      ∧ exec (.xor dst src) s = .next (u.result dst (plainOutcome (d ^^^ x) none))
      ∧ exec (.not dst src) s = .next (u.result dst (plainOutcome (~~~x) none))
      ∧ exec (.tstb dst src) s = .next (u.setFlags (plainOutcome (d &&& x) none).2)
      ∧ exec (.mpyuhi dst src) s
        = .next (u.result dst (BitVec.ofNat 32 (d.toNat * x.toNat / 2 ^ 32),
            { v := false, uf := false, luf := false, c := none, n := false, z := decide (d.toNat * x.toNat = 0) }))

/-- ASH and LSH by a count n, the low seven bits of the operand as a signed number (41 R268, R274): to the left the exact
product with V (ASH only), to the right the floor of the quotient, signed or unsigned; C is the last bit shifted out, 0 for
n = 0. Beyond 32 places C is as the spec decides (D50, log 25): old bit 0 to the left, to the right the sign for ASH and 0 for
LSH.
The rotates by one: ROL and ROR bring in the bit rotated out, ROLC and RORC the old carry; C is the bit rotated out
(R287–R289, R298). -/
def Obligations.ShiftsAndRotates : Prop :=
  (∀ (s u : State) (dst : Reg) (src : Src Reg) (x : Word) (k : Nat), s.sequenced.sourceInt src = .ok x u →
      let d := s.sequenced.get dst
      let n := (x.extractLsb' 0 7).toInt
      (n = 0 → exec (.ash dst src) s = .next (u.result dst (plainOutcome d (some false)))
          ∧ exec (.lsh dst src) s = .next (u.result dst (plainOutcome d (some false))))
        ∧ (n = k → 1 ≤ k →
            exec (.ash dst src) s = .next (u.result dst (BitVec.ofInt 32 (d.toInt * 2 ^ k),
                { (plainOutcome (BitVec.ofInt 32 (d.toInt * 2 ^ k)) (some (d.getLsbD (32 - k)))).2 with
                  v := decide (d.toInt * 2 ^ k < -2147483648 ∨ 2147483647 < d.toInt * 2 ^ k) }))
              ∧ exec (.lsh dst src) s
                = .next (u.result dst (plainOutcome (BitVec.ofNat 32 (d.toNat * 2 ^ k)) (some (d.getLsbD (32 - k))))))
        ∧ (n = -(k : Int) → 1 ≤ k →
            exec (.ash dst src) s = .next (u.result dst (plainOutcome (BitVec.ofInt 32 (d.toInt / 2 ^ k))
                (some (if k ≤ 32 then d.getLsbD (k - 1) else d.getLsbD 31))))
              ∧ exec (.lsh dst src) s = .next (u.result dst (plainOutcome (BitVec.ofNat 32 (d.toNat / 2 ^ k))
                (some (if k ≤ 32 then d.getLsbD (k - 1) else false))))))
    ∧ ∀ (s : State) (dst : Reg),
        let t := s.sequenced
        let d := t.get dst
        let c := t.st.getLsbD 0
        exec (.rol dst) s = .next (t.result dst (plainOutcome (d.rotateLeft 1) (some d.msb)))
          ∧ exec (.rolc dst) s
            = .next (t.result dst (plainOutcome ((d <<< 1) ||| (BitVec.ofBool c).setWidth 32) (some d.msb)))
          ∧ exec (.ror dst) s = .next (t.result dst (plainOutcome (d.rotateRight 1) (some (d.getLsbD 0))))
          ∧ exec (.rorc dst) s
            = .next (t.result dst (plainOutcome ((d >>> 1) ||| ((BitVec.ofBool c).setWidth 32 <<< 31)) (some (d.getLsbD 0))))

/-- The byte and half-word loads: the selected byte or half-word sign- or zero-extended, N = 0 for the unsigned ones (41
R290–R293). The merges, bit by bit: LWL shifts the source left by b bytes over the low bytes of dst, LWR right under its high
bytes, MB and MH replace one byte or half-word (41 R294–R297). -/
def Obligations.BytesAndHalfWords : Prop :=
  ∀ (s u : State) (dst : Reg) (src : Src Reg) (x : Word) (b : BitVec 2) (h : BitVec 1),
    s.sequenced.sourceInt src = .ok x u →
    let byte := (x >>> (8 * b.toNat)).setWidth 8
    let d := s.sequenced.get dst
    let k := 8 * b.toNat
    let j := 16 * h.toNat
    let half := (x >>> (16 * h.toNat)).setWidth 16
    exec (.lb b dst src) s = .next (u.result dst (plainOutcome (byte.signExtend 32) none))
      ∧ exec (.lbu b dst src) s
        = .next (u.result dst (byte.setWidth 32, { (plainOutcome (byte.setWidth 32) none).2 with n := false }))
      ∧ exec (.lh h dst src) s = .next (u.result dst (plainOutcome (half.signExtend 32) none))
      ∧ exec (.lhu h dst src) s
        = .next (u.result dst (half.setWidth 32, { (plainOutcome (half.setWidth 32) none).2 with n := false }))
      ∧ (∃ v : Word, exec (.lwl b dst src) s = .next (u.result dst (plainOutcome v none))
        ∧ ∀ i, i < 32 → v.getLsbD i = if k ≤ i then x.getLsbD (i - k) else d.getLsbD i)
      ∧ (∃ v : Word, exec (.lwr b dst src) s = .next (u.result dst (plainOutcome v none))
        ∧ ∀ i, i < 32 → v.getLsbD i = if i + k < 32 then x.getLsbD (i + k) else d.getLsbD i)
      ∧ (∃ v : Word, exec (.mb b dst src) s = .next (u.result dst (plainOutcome v none))
        ∧ ∀ i, i < 32 → v.getLsbD i = if k ≤ i ∧ i < k + 8 then x.getLsbD (i - k) else d.getLsbD i)
      ∧ ∃ v : Word, exec (.mh h dst src) s = .next (u.result dst (plainOutcome v none))
        ∧ ∀ i, i < 32 → v.getLsbD i = if j ≤ i ∧ i < j + 16 then x.getLsbD (i - j) else d.getLsbD i

/-- The three-operand integer instructions on src1 and src2 (42 R331, R333–R336, R339, R341–R345, R347, R349): src1 − src2
for the subtractions, src1 shifted by src2; CMPI3 and TSTB3 write no register and always the flags (R338, R348). The operand
pair of the group in every form of type 1 and 2 (42 R330, 30 R178; the bytes of type 2 as 30 R179 restores them, log 26): a
register, an indirect operand with displacement 1, the 8-bit immediate sign-extended, or the word at ARn plus an unsigned
5-bit displacement, which leaves ARn; both addresses from the old registers; a floating-point instruction widens each word.
Here with the memory operands in on-chip RAM. -/
def Obligations.ThreeOperandInteger : Prop :=
  (∀ (s u : State) (dst : Reg) (o : Tri Reg) (a b : Word), s.sequenced.operandsInt o = .ok (a, b) u →
    let ovm := s.sequenced.st.getLsbD 7
    let c := s.sequenced.st.getLsbD 0
    exec (.addi3 dst o) s
        = .next (u.result dst (intOutcome ovm (a.toInt + b.toInt) (some (decide (2 ^ 32 ≤ a.toNat + b.toNat)))))
      ∧ exec (.addc3 dst o) s
        = .next (u.result dst (intOutcome ovm (a.toInt + b.toInt + c.toNat)
            (some (decide (2 ^ 32 ≤ a.toNat + b.toNat + c.toNat)))))
      ∧ exec (.subi3 dst o) s
        = .next (u.result dst (intOutcome ovm (a.toInt - b.toInt) (some (decide (a.toNat < b.toNat)))))
      ∧ exec (.subb3 dst o) s
        = .next (u.result dst (intOutcome ovm (a.toInt - b.toInt - c.toNat) (some (decide (a.toNat < b.toNat + c.toNat)))))
      ∧ exec (.mpyi3 dst o) s = .next (u.result dst (intOutcome ovm (a.toInt * b.toInt) none))
      ∧ exec (.mpyshi3 dst o) s
        = .next (u.result dst (BitVec.ofInt 32 (a.toInt * b.toInt / 2 ^ 32),
            { v := false, uf := false, luf := false, c := none, n := decide (a.toInt * b.toInt < 0)
              z := decide (a.toInt * b.toInt = 0) }))
      ∧ exec (.mpyuhi3 dst o) s
        = .next (u.result dst (BitVec.ofNat 32 (a.toNat * b.toNat / 2 ^ 32),
            { v := false, uf := false, luf := false, c := none, n := false, z := decide (a.toNat * b.toNat = 0) }))
      ∧ exec (.and3 dst o) s = .next (u.result dst (plainOutcome (a &&& b) none))
      ∧ exec (.andn3 dst o) s = .next (u.result dst (plainOutcome (a &&& ~~~b) none))
      ∧ exec (.or3 dst o) s = .next (u.result dst (plainOutcome (a ||| b) none))
      ∧ exec (.xor3 dst o) s = .next (u.result dst (plainOutcome (a ^^^ b) none))
      ∧ exec (.ash3 dst o) s = .next (u.result dst (ashInt a b))
      ∧ exec (.lsh3 dst o) s = .next (u.result dst (lshInt a b))
      ∧ exec (.cmpi3 o) s
        = .next (u.setFlags (intOutcome false (a.toInt - b.toInt) (some (decide (a.toNat < b.toNat)))).2)
      ∧ exec (.tstb3 o) s = .next (u.setFlags (plainOutcome (a &&& b) none).2))
    ∧ ∀ (s : State) (x y : Reg) (m n : FReg) (i j : Ind) (k : BitVec 8) (d e : Disp),
      let p := s.indAddr i 1
      let q := s.indAddr j 1
      let f := s.ar[d.n] + d.d.setWidth 32
      let g := s.ar[e.n] + e.d.setWidth 32
      let at' := fun a : Word => Memory.readWord s.mem a
      let wide := fun a : Word => Memory.readWord s.mem a ++ (0 : BitVec 8)
      let ram := fun a : Word => region s.pins.romen a = .ram
      s.operandsInt (.regReg x y) = .ok (s.get x, s.get y) s
        ∧ s.operandsFloat (.regReg m n) = .ok (s.r[m], s.r[n]) s
        ∧ s.operandsInt (.regImm x k) = .ok (s.get x, k.signExtend 32) s
        ∧ (ram p → s.operandsInt (.indReg i y) = .ok (at' p, s.get y) (s.indUpdate i 1)
            ∧ s.operandsFloat (.indReg i n) = .ok (wide p, s.r[n]) (s.indUpdate i 1))
        ∧ (ram q → s.operandsInt (.regInd x j) = .ok (s.get x, at' q) (s.indUpdate j 1)
            ∧ s.operandsFloat (.regInd m j) = .ok (s.r[m], wide q) (s.indUpdate j 1))
        ∧ (ram p → ram q → s.operandsInt (.indInd i j) = .ok (at' p, at' q) (s.indUpdate2 i j)
            ∧ s.operandsFloat (.indInd i j) = .ok (wide p, wide q) (s.indUpdate2 i j))
        ∧ (ram f → s.operandsInt (.regDisp x d) = .ok (s.get x, at' f) s
            ∧ s.operandsFloat (.regDisp m d) = .ok (s.r[m], wide f) s
            ∧ s.operandsInt (.dispImm d k) = .ok (at' f, k.signExtend 32) s)
        ∧ (ram f → ram g → s.operandsInt (.dispDisp d e) = .ok (at' f, at' g) s
            ∧ s.operandsFloat (.dispDisp d e) = .ok (wide f, wide g) s)

/-! ### Floating point -/

/-- What `float_finish` gives for m × 2^(exp − 31), m not 0 (41 R253): with exponent e = exp + p − 31, p the position of the
leading bit, the extreme number and V for e > 127, zero and UF for e ≤ −128, else a register whose exponent is e and whose
mantissa is normalized and m / 2^(p − 31), cut toward minus infinity. That cut is the spec's decision D47, and Z with an
underflow its decision D48 (log 23). For m = 0 it is zero with Z, and N, V and UF are 0. -/
def Obligations.FloatFinish : Prop :=
  (∀ exp : Int, floatFinish ⟨0, exp⟩ = (0x8000000000, { v := false, uf := false, n := false, z := true }))
  ∧ ∀ (m exp e : Int), m ≠ 0 →
    ((2 : Rat) ^ (e - exp + 31) ≤ m ∧ m < (2 : Rat) ^ (e - exp + 32)
      ∨ -((2 : Rat) ^ (e - exp + 32)) ≤ m ∧ m < -((2 : Rat) ^ (e - exp + 31))) →
    (127 < e → floatFinish ⟨m, exp⟩
        = (if 0 < m then 0x7F7FFFFFFF else 0x7F80000000, { v := true, n := decide (m < 0), z := false }))
      ∧ (e ≤ -128 → floatFinish ⟨m, exp⟩ = (0x8000000000, { uf := true, n := false, z := true }))
      ∧ (-128 < e → e ≤ 127 →
          (floatFinish ⟨m, exp⟩).2 = { n := decide (m < 0), z := false }
            ∧ (Machine.Num.ofExt (floatFinish ⟨m, exp⟩).1).exp = e
            ∧ ((Machine.Num.ofExt (floatFinish ⟨m, exp⟩).1).man : Rat) ≤ m * (2 : Rat) ^ (exp - e)
            ∧ (m : Rat) * (2 : Rat) ^ (exp - e) < (Machine.Num.ofExt (floatFinish ⟨m, exp⟩).1).man + 1)

/-- The floating-point additions, subtractions, products, negation and absolute value of dst and src (41 R254, R255, R260,
R264, R275, R280, R302, R305); CMPF writes only the flags of dst − src (41 R269). The three-operand forms on src1 and src2 (42
R332, R337, R340, R346). A register is zero where its exponent is −128 (D40), else its mantissa with the implied bit; products
are exact before float_finish. A sum has the larger exponent, and the mantissa of the other operand is divided by the power of
two of the difference and cut toward minus infinity, so that the bits shifted out are dropped: the spec's decision D46 (log
23). The sum and the difference of the parallel instructions are these. -/
def Obligations.FloatArithmetic : Prop :=
  let sum := fun p q : Machine.Num =>
    if p.man = 0 then floatOutcome q.man q.exp
    else if q.man = 0 then floatOutcome p.man p.exp
    else floatOutcome
      (p.man / 2 ^ (max p.exp q.exp - p.exp).toNat + q.man / 2 ^ (max p.exp q.exp - q.exp).toNat) (max p.exp q.exp)
  let sub := fun p q : Machine.Num => sum p ⟨-q.man, q.exp⟩
  (∀ x : Ext, Machine.Num.ofExt x =
      if x.extractLsb' 32 8 = 0x80 then ⟨0, -128⟩
      else ⟨(x.extractLsb' 0 31).toNat + (if x.getLsbD 31 = true then -(2 : Int) ^ 32 else (2 : Int) ^ 31),
        (x.extractLsb' 32 8).toInt⟩)
    ∧ (∀ (s u : State) (dst : FReg) (src : Src FReg) (x : Ext), s.sequenced.sourceFloat src = .ok x u →
        let a := Machine.Num.ofExt (s.sequenced.getF dst)
        let b := Machine.Num.ofExt x
        exec (.addf dst src) s = .next (u.resultF dst (sum a b))
          ∧ exec (.subf dst src) s = .next (u.resultF dst (sub a b))
          ∧ exec (.subrf dst src) s = .next (u.resultF dst (sub b a))
          ∧ exec (.mpyf dst src) s = .next (u.resultF dst (floatOutcome (a.man * b.man) (a.exp + b.exp - 31)))
          ∧ exec (.negf dst src) s = .next (u.resultF dst (floatOutcome (-b.man) b.exp))
          ∧ exec (.absf dst src) s = .next (u.resultF dst (floatOutcome b.man.natAbs b.exp))
          ∧ exec (.cmpf dst src) s = .next (u.setFlags (sub a b).2))
    ∧ (∀ (s u : State) (dst : FReg) (o : Tri FReg) (x y : Ext), s.sequenced.operandsFloat o = .ok (x, y) u →
        let a := Machine.Num.ofExt x
        let b := Machine.Num.ofExt y
        exec (.addf3 dst o) s = .next (u.resultF dst (sum a b))
          ∧ exec (.subf3 dst o) s = .next (u.resultF dst (sub a b))
          ∧ exec (.mpyf3 dst o) s = .next (u.resultF dst (floatOutcome (a.man * b.man) (a.exp + b.exp - 31)))
          ∧ exec (.cmpf3 o) s = .next (u.setFlags (sub a b).2))
    ∧ ∀ (p q : Machine.Num) (x y : Ext), floatFinish (p.add q) = sum p q
        ∧ floatAdd x y = sum (Machine.Num.ofExt x) (Machine.Num.ofExt y)
        ∧ floatSub x y = sub (Machine.Num.ofExt x) (Machine.Num.ofExt y)

/-- FIX writes the floor, saturated with V where the exponent exceeds 30, whatever OVM is: the spec's decision D53 (41 R258,
R271; log 23); FLOAT the exact number (41 R259, R272). NORM, RND, FRIEEE, TOIEEE, RCPF and RSQRF complete with their
conversion of the operand (41 R273, R282, R285, R286, R299, R307) as Float.lean defines it. -/
def Obligations.FloatConversions : Prop :=
  ∀ s u : State,
    (∀ dst src x, s.sequenced.sourceFloat src = .ok x u →
        let a := Machine.Num.ofExt x
        let v : Word := if 30 < a.exp then (if 0 < a.man then 0x7FFFFFFF else 0x80000000)
          else BitVec.ofInt 32 (a.man / 2 ^ (31 - a.exp).toNat)
        exec (.fix dst src) s = .next (u.result dst (v, { (plainOutcome v none).2 with v := decide (30 < a.exp) })))
      ∧ (∀ dst n, exec (.float dst (.reg n)) s
          = .next (s.sequenced.resultF dst (floatOutcome ((s.sequenced.getF n).extractLsb' 0 32).toInt 31)))
      ∧ (∀ dst v, exec (.float dst (.imm v)) s = .next (s.sequenced.resultF dst (floatOutcome (v.signExtend 32).toInt 31)))
      ∧ (∀ dst m w, s.sequenced.fetch .plain m = .ok w u →
          exec (.float dst (.mem m)) s = .next (u.resultF dst (floatOutcome w.toInt 31)))
      ∧ (∀ dst src x, s.sequenced.sourceFloat src = .ok x u →
        exec (.norm dst src) s = .next (u.resultF dst (normFloat x))
          ∧ exec (.rnd dst src) s = .next (u.resultF dst (roundFloat x))
          ∧ exec (.toieee dst src) s = .next (u.resultF dst (toIeee x))
          ∧ exec (.rcpf dst src) s = .next (u.resultF dst (reciprocal x))
          ∧ exec (.rsqrf dst src) s = .next (u.resultF dst (rootReciprocal s.sequenced.draws x)))
      ∧ ∀ dst m w, s.sequenced.fetch .plain m = .ok w u →
          exec (.frieee dst m) s = .next (u.resultF dst (fromIeee w))

/-- FLOAT followed by FIX gives back every integer, without overflow (41 R258, R259); FRIEEE followed by TOIEEE gives back
every IEEE number whose exponent field is 2 to 254 (30 R166, R167). Table 5.12 of FRIEEE with its flags, case by case (30 R166,
41 R273): infinities and NaNs become the extreme number of their sign with V, zeros and denormals zero, the others their
fields. Table 5.13 of TOIEEE (30 R167, 41 R307): exponents −128 and −127 become zero, the most negative number minus infinity;
that V is set in that case alone, and that bits 7–0 are cleared, is the spec's decision D61 (log 23). -/
def Obligations.ConversionRoundTrips : Prop :=
  (∀ n : Word, (fixInt (floatInt n).1).1 = n ∧ (fixInt (floatInt n).1).2.v = false)
    ∧ (∀ w : Word, 2 ≤ (w.extractLsb' 23 8).toNat → (w.extractLsb' 23 8).toNat ≤ 254 →
        (toIeee (fromIeee w).1).1 = w ++ (0 : BitVec 8))
    ∧ (∀ w : Word,
        let e := w.extractLsb' 23 8
        let f := w.extractLsb' 0 23
        let low := (0 : BitVec 8)
        (e = 255 → fromIeee w = (if w.getLsbD 31 = true then 0x7F80000000 else 0x7F7FFFFF00,
            { v := true, n := w.getLsbD 31, z := false }))
          ∧ (e = 0 → fromIeee w = (0x8000000000, { v := false, n := false, z := true }))
          ∧ (e ≠ 0 → e ≠ 255 → fromIeee w =
              (if w.getLsbD 31 = false then (e - 0x7F) ++ (0 : BitVec 1) ++ f ++ low
                else if f = 0 then (e - 0x80) ++ (1 : BitVec 1) ++ f ++ low
                else (e - 0x7F) ++ (1 : BitVec 1) ++ (~~~f + 1) ++ low,
              { v := false, n := w.getLsbD 31, z := false })))
    ∧ ∀ x : Ext,
        let e := x.extractLsb' 32 8
        let f := x.extractLsb' 8 23
        let low := (0 : BitVec 8)
        (e = 0x80 ∨ e = 0x81 → toIeee x = (0, { v := false, n := false, z := true }))
          ∧ (e = 0x7F → x.getLsbD 31 = true → f = 0 → toIeee x = (0xFF80000000, { v := true, n := true, z := false }))
          ∧ (e ≠ 0x80 → e ≠ 0x81 → (e ≠ 0x7F ∨ x.getLsbD 31 = false ∨ f ≠ 0) → toIeee x =
              (if x.getLsbD 31 = false then (0 : BitVec 1) ++ (e + 0x7F) ++ f ++ low
                else if f = 0 then (1 : BitVec 1) ++ (e + 0x80) ++ f ++ low
                else (1 : BitVec 1) ++ (e + 0x7F) ++ (~~~f + 1) ++ low,
              { v := false, n := x.getLsbD 31, z := false }))

/-- RND adds half a unit of the single-precision last place, 128 units of the extended one, and cuts the eight low fraction
bits, unless the sum overflows or underflows; it sets UF and not Z for an operand 0 (41 R257, R286). NORM of a word with
exponent 0 counts its leading zeros or ones (41 R256). NORM of any word whose first bit unlike its sign is the k-th below it
shifts the mantissa left by k, drops that bit and takes k off the exponent, with the sign in N; at exponent −128 and below the
result is zero with UF (41 R282), and with Z by the spec's decision D48 (log 23), but without Z where the operand's own
exponent was −128; a mantissa field of 0 gives zero with Z. RCPF of 0 is the most positive number with V, of exponent 127 zero
with UF, else a number of the same sign with eight fraction bits (41 R285), whose exponent −e − 1 is the spec's decision D60;
RSQRF of 0 the most positive number with V, of another positive number a positive one of exponent ⌊−(e + 1) / 2⌋ with eight
fraction bits (41 R299). The relative error of both is below 2^−8 (41 R285, R299, D60), for RCPF but of the mantissa −2.0, for
which no entry is so near (log 24): with mantissas m and y in units of 2^−31 the product m·y is within 2^55 of 2^63, and m·y²
between 255² and 257² times 2^79, or 2^78 where the exponent is odd. -/
def Obligations.RoundNormalizeEstimate : Prop :=
  (∀ x : Ext, x.extractLsb' 32 8 ≠ 0x80 →
      let a := Machine.Num.ofExt x
      let c := floatOutcome (a.man + 128) a.exp
      roundFloat x = (if c.2.v = true ∨ c.2.uf = true then c.1 else c.1.extractLsb' 8 32 ++ (0 : BitVec 8), c.2))
    ∧ (∀ x : Ext, x.extractLsb' 32 8 = 0x80 →
        roundFloat x = (0x8000000000, { uf := true, n := false, z := false, luf := false }))
    ∧ (∀ (m : Word) (k : Nat), k ≤ 32 →
        ((2 : Int) ^ (32 - k) ≤ 2 * m.toInt ∧ m.toInt < 2 ^ (32 - k)
          ∨ -(2 : Int) ^ (32 - k) ≤ m.toInt ∧ 2 * m.toInt < -(2 : Int) ^ (32 - k)) →
        exponent (normFloat ((0 : BitVec 8) ++ m)).1 = -(k : Int))
    ∧ (∀ (x : Ext) (k : Nat), k ≤ 32 →
        let m := x.extractLsb' 0 32
        let e := exponent x
        (m = 0 → normFloat x = (0x8000000000, { uf := false, n := false, z := true }))
          ∧ (m ≠ 0 → e = -128 → normFloat x = (0x8000000000, { uf := true, n := false, z := false }))
          ∧ (((2 : Int) ^ (32 - k) ≤ 2 * m.toInt ∧ m.toInt < 2 ^ (32 - k)
                ∨ -(2 : Int) ^ (32 - k) ≤ m.toInt ∧ 2 * m.toInt < -(2 : Int) ^ (32 - k)) →
              e ≠ -128 →
              (e - k ≤ -128 → normFloat x = (0x8000000000, { uf := true, n := false, z := true }))
                ∧ (-128 < e - k → normFloat x = (BitVec.ofInt 8 (e - k) ++ m.extractLsb' 31 1 ++ (m <<< k).extractLsb' 0 31,
                    { uf := false, n := m.msb, z := false }))))
    ∧ ∀ (x : Ext) (draw : Nat),
        let e := exponent x
        let m := (Machine.Num.ofExt x).man
        let y := (Machine.Num.ofExt (reciprocal x).1).man
        let z := (Machine.Num.ofExt (rootReciprocal draw x).1).man
        let unit : Int := if e % 2 = 0 then 2 ^ 79 else 2 ^ 78
        let plain := fun v n : Bool => ({ v := v, uf := false, luf := false, n := n, z := false, c := none } : Flags)
        (e = -128 → reciprocal x = (0x7F7FFFFFFF, plain true (x.getLsbD 31))
            ∧ rootReciprocal draw x = (0x7F7FFFFFFF, plain true false))
          ∧ (e = 127 → (reciprocal x).1 = 0x8000000000 ∧ (reciprocal x).2.uf = true ∧ (reciprocal x).2.luf = true
              ∧ (reciprocal x).2.z = true ∧ (reciprocal x).2.v = false ∧ (reciprocal x).2.c = none)
          ∧ (e ≠ -128 → (rootReciprocal draw x).2 = plain false false)
          ∧ (e ≠ -128 → e ≠ 127 → (reciprocal x).2 = plain false (x.getLsbD 31) ∧ exponent (reciprocal x).1 = -e - 1
              ∧ (reciprocal x).1.getLsbD 31 = x.getLsbD 31 ∧ (reciprocal x).1.extractLsb' 0 23 = 0)
          ∧ (e ≠ -128 → x.getLsbD 31 = false → exponent (rootReciprocal draw x).1 = (-(e + 1)) / 2
              ∧ (rootReciprocal draw x).1.getLsbD 31 = false ∧ (rootReciprocal draw x).1.extractLsb' 0 23 = 0)
          ∧ (e ≠ -128 → e ≠ 127 → m ≠ -2 ^ 32 → 2 ^ 63 - 2 ^ 55 < m * y ∧ m * y < (2 : Int) ^ 63 + 2 ^ 55)
          ∧ (e ≠ -128 → x.getLsbD 31 = false → 255 ^ 2 * unit < m * z ^ 2 ∧ m * z ^ 2 < 257 ^ 2 * unit)

/-! ### Program control -/

/-- Where a branch at `pc` goes: a register, or pc + k + the sign-extended displacement, with k = 1 for a standard and 3 for
a delayed branch (30 R187, 43 R360). BR and Bcond go there at once, Bcond only if its condition is true (43 R361, R365). -/
def Obligations.Branches : Prop :=
  ∀ (s : State) (c : Cond) (r : Reg) (d : BitVec 16) (e : BitVec 24),
    let t := s.sequenced
    exec (.br e) s = .next { t with pc := s.pc + 1 + e.signExtend 32 }
      ∧ (t.cond c = true → exec (.bCond c (.rel d)) s = .next { t with pc := s.pc + 1 + d.signExtend 32 }
          ∧ exec (.bCond c (.reg r)) s = .next { t with pc := t.get r })
      ∧ (t.cond c = false → exec (.bCond c (.rel d)) s = .next t ∧ exec (.bCond c (.reg r)) s = .next t)

/-- The delayed branches: three slots, then the target or the instruction behind the slots; BcondAF annuls the slots when it
does not branch, BcondAT when it does (43 R362–R365, R380). An annulled slot only advances the program counter (R385), unless it
is LDA, LDPK, LDP, a push or a pop or modifies an auxiliary register: then those registers may or may not change (D51, log 15)
and nothing else does. -/
def Obligations.DelayedBranches : Prop :=
  ∀ (s : State) (c : Cond) (r : Reg) (d : BitVec 16) (e : BitVec 24),
    let t := s.sequenced
    let go := fun (a : Word) (annulled : Bool) =>
      (Host.Outcome.next { t with delay := some ⟨.three, a, annulled, .branch⟩ } : Host.Outcome State Fault Refusal)
    exec (.brd e) s = go (s.pc + 3 + e.signExtend 32) false
      ∧ (t.cond c = true →
          exec (.bCondD c (.rel d)) s = go (s.pc + 3 + d.signExtend 32) false
            ∧ exec (.bCondD c (.reg r)) s = go (t.get r) false
            ∧ exec (.bCondAf c (.rel d)) s = go (s.pc + 3 + d.signExtend 32) false
            ∧ exec (.bCondAf c (.reg r)) s = go (t.get r) false
            ∧ exec (.bCondAt c (.rel d)) s = go (s.pc + 3 + d.signExtend 32) true
            ∧ exec (.bCondAt c (.reg r)) s = go (t.get r) true)
      ∧ (t.cond c = false → ∀ a : Target,
          exec (.bCondD c a) s = go (s.pc + 4) false ∧ exec (.bCondAf c a) s = go (s.pc + 4) true
            ∧ exec (.bCondAt c a) s = go (s.pc + 4) false)
      ∧ ∀ i : Instr, i.wellFormed = true →
          (slotUpdates i = [] → s.annul i = t)
            ∧ ∃ ar dp ir0 ir1 bk sp, s.annul i = { t with ar := ar, dp := dp, ir0 := ir0, ir1 := ir1, bk := bk, sp := sp }
                ∧ ∀ x, x ∉ slotUpdates i → (s.annul i).stored x = t.stored x

/-- LAJ and LAJcond write PC + 4 into R11, keeping its exponent byte, LAJcond only when its condition is true; the slots run
either way (43 R381, R382). The target register is read before R11 is written: the model's reading (log 28). -/
def Obligations.LinkedJumps : Prop :=
  ∀ (s : State) (c : Cond) (r : Reg) (d : BitVec 16) (e : BitVec 24),
    let t := s.sequenced
    let link := fun a : Word => (Host.Outcome.next
      { t with r := t.r.set 11 ((t.r[11]).extractLsb' 32 8 ++ (s.pc + 4)), delay := some ⟨.three, a, false, .branch⟩ }
      : Host.Outcome State Fault Refusal)
    exec (.laj e) s = link (s.pc + 3 + e.signExtend 32)
      ∧ (t.cond c = true → exec (.lajCond c (.rel d)) s = link (s.pc + 3 + d.signExtend 32)
          ∧ exec (.lajCond c (.reg r)) s = link (t.get r))
      ∧ (t.cond c = false → ∀ a, exec (.lajCond c a) s = .next { t with delay := some ⟨.three, s.pc + 4, false, .branch⟩ })

/-- DBcond and DBcondD count ARn down whatever happens, and branch when the condition is true and the counted value is not
negative (43 R377, R378). A register target is read after the count: the model's reading (log 28). -/
def Obligations.DecrementBranches : Prop :=
  ∀ (s : State) (n : Fin 8) (c : Cond) (r : Reg) (d : BitVec 16),
    let t := s.sequenced
    let v := s.ar[n] - 1
    let u := { t with ar := t.ar.set n v }
    let slots := fun a : Word => (Host.Outcome.next { u with delay := some ⟨.three, a, false, .branch⟩ }
      : Host.Outcome State Fault Refusal)
    (t.cond c = true → 0 ≤ v.toInt →
        exec (.dbCond n c (.rel d)) s = .next { u with pc := s.pc + 1 + d.signExtend 32 }
          ∧ exec (.dbCond n c (.reg r)) s = .next { u with pc := u.get r }
          ∧ exec (.dbCondD n c (.rel d)) s = slots (s.pc + 3 + d.signExtend 32)
          ∧ exec (.dbCondD n c (.reg r)) s = slots (u.get r))
      ∧ (t.cond c = false ∨ v.toInt < 0 → ∀ a,
          exec (.dbCond n c a) s = .next u ∧ exec (.dbCondD n c a) s = slots (s.pc + 4))

/-- CALL and CALLcond push PC + 1 and go to their target; a false condition goes on (43 R375, R376). A register target of
CALLcond is read behind the push, in the order of the operation of R376, so that SP gives the new SP where no LDA behind has
loaded SP early, as none has behind a call (log 28, log 16). -/
def Obligations.Calls : Prop :=
  ∀ (s u : State) (c : Cond) (r : Reg) (d : BitVec 16) (e : BitVec 24),
    let t := s.sequenced
    (memWrite .plain (t.sp + 1) (s.pc + 1) { t with sp := t.sp + 1 } = .ok () u →
        exec (.call e) s = .next { u with pc := s.pc + 1 + e.signExtend 32 }
          ∧ (t.cond c = true → exec (.callCond c (.rel d)) s = .next { u with pc := s.pc + 1 + d.signExtend 32 }
              ∧ exec (.callCond c (.reg r)) s = .next { u with pc := u.get r }
              ∧ (s.early = none → exec (.callCond c (.reg .sp)) s = .next { u with pc := t.sp + 1 })))
      ∧ (t.cond c = false → ∀ a, exec (.callCond c a) s = .next t)

/-- RETScond pops the program counter when its condition is true, goes on to PC + 1 otherwise, and changes nothing of ST; its
word is 7880 0000h with the condition in bits 20–16 (43 R367). -/
def Obligations.SubroutineReturn : Prop :=
  ∀ (s u : State) (c : Cond),
    let t := s.sequenced
    encode (.retsCond c) = 0x78800000 ||| ((codeOfCond c).setWidth 32 <<< 16)
      ∧ (s.delay = none → s.repeatMode = false → t.pc = s.pc + 1 ∧ t.st = s.st)
      ∧ (∀ v, t.cond c = true → memRead .plain t.sp t = .ok v u →
          exec (.retsCond c) s = .next { u with sp := u.sp - 1, pc := v })
      ∧ (t.cond c = false → exec (.retsCond c) s = .next t)
      ∧ ∀ v, exec (.retsCond c) s = .next v → v.waiting = none → v.st = t.st

/-- RETIcond and RETIcondD, when their condition is true, pop the program counter and copy PGIE into GIE and PCF into CF; the
delayed form goes there behind its three slots, with the pop and the copies done at once: the model's choice (92 D58, log 28);
otherwise only the slots run (43 R366). -/
def Obligations.ExceptionReturns : Prop :=
  ∀ (s u : State) (c : Cond) (v : Word),
    let t := s.sequenced
    (t.cond c = true → memRead .plain t.sp t = .ok v u →
        ∃ w : State, exec (.retiCond c) s = .next { w with pc := v }
          ∧ exec (.retiCondD c) s = .next { w with delay := some ⟨.three, v, false, .retid⟩ }
          ∧ w = { u with sp := u.sp - 1, st := w.st } ∧ w.st.getLsbD 13 = u.st.getLsbD 14
          ∧ w.st.getLsbD 10 = u.st.getLsbD 9 ∧ ∀ b, b ≠ 13 → b ≠ 10 → w.st.getLsbD b = u.st.getLsbD b)
      ∧ (t.cond c = false → exec (.retiCond c) s = .next t
          ∧ exec (.retiCondD c) s = .next { t with delay := some ⟨.three, s.pc + 4, false, .retid⟩ })

/-- A taken TRAPcond saves GIE and CF in PGIE and PCF, clears GIE, sets CF, pushes PC + 1 and goes to vector N of the trap
vector table; LATcond does the same with the return address PC + 4 in R11 and three slots before the jump; an untaken one goes
on (43 R368, R383, 60 R661). That LATcond changes ST before its slots is the spec's decision D54; that it writes R11 and reads
the vector there too is the model's reading (log 28). -/
def Obligations.Traps : Prop :=
  ∀ (s u w : State) (c : Cond) (n : BitVec 9) (v : Word),
    let t := s.sequenced
    (∃ k : Word, k.getLsbD 14 = t.st.getLsbD 13 ∧ k.getLsbD 9 = t.st.getLsbD 10 ∧ k.getLsbD 13 = false
        ∧ k.getLsbD 10 = true ∧ (∀ b, b ∉ [9, 10, 13, 14] → k.getLsbD b = t.st.getLsbD b)
        ∧ (t.cond c = true → memWrite .plain (t.sp + 1) (s.pc + 1) { t with st := k, sp := t.sp + 1 } = .ok () u →
            memRead .plain ((t.tvtp &&& 0xFFFFFE00) + n.setWidth 32) u = .ok v w →
            exec (.trapCond c n) s = .next { w with pc := v })
        ∧ (t.cond c = true →
            memRead .plain ((t.tvtp &&& 0xFFFFFE00) + n.setWidth 32)
              { t with st := k, r := t.r.set 11 ((t.r[11]).extractLsb' 32 8 ++ (s.pc + 4)) } = .ok v w →
            exec (.latCond c n) s = .next { w with delay := some ⟨.three, v, false, .trap⟩ }))
      ∧ (t.cond c = false → exec (.trapCond c n) s = .next t
          ∧ exec (.latCond c n) s = .next { t with delay := some ⟨.three, s.pc + 4, false, .trap⟩ })

/-- RPTB and RPTBD set RS to the instruction behind them (behind the slots of RPTBD), RE to a register or their displacement
from it, RM to 1 and S to 0, and leave RC; RPTS sets RC to its operand, RS and RE to the next instruction, RM and S to 1 (43
R371–R373). -/
def Obligations.Repeats : Prop :=
  ∀ (s : State) (r : Reg) (d : BitVec 24),
    let t := s.sequenced
    let block := fun (x : State) (first last : Word) =>
      ({ x with rs := first, re := last, st := x.st ||| 0x100, repeatSingle := false } : State)
    exec (.rptb (.rel d)) s = .next (block t (s.pc + 1) (s.pc + 1 + d.signExtend 32))
      ∧ exec (.rptb (.reg r)) s = .next (block t (s.pc + 1) (t.get r))
      ∧ exec (.rptbd (.rel d)) s
        = .next { block t (s.pc + 4) (s.pc + 3 + d.signExtend 32) with delay := some ⟨.three, s.pc + 4, false, .rptbd⟩ }
      ∧ exec (.rptbd (.reg r)) s
        = .next { block t (s.pc + 4) (t.get r) with delay := some ⟨.three, s.pc + 4, false, .rptbd⟩ }
      ∧ ∀ src x u, t.sourceUint src = .ok x u →
          exec (.rpts src) s = .next { u with rc := x, rs := s.pc + 1, re := s.pc + 1, st := u.st ||| 0x100
                                              repeatSingle := true, irHeld := false }

/-- NOP does nothing, in its indirect form a read whose word is dropped and the update of ARn (43 R384); IACK the same read,
for an external address with IACK# low from its start and high at its end, which shows outside as one pulse (43 R379, 60
R662); that it stays low while the read waits, and that an address inside the core does not drive it, is the model's reading
(logs 13, 28). External is an address that selects a strobe of a bus, which no reserved one does (20 R104, R106, R121; log 10).
IDLE and IDLE2 set GIE and wait behind themselves (43 R395, R396). -/
def Obligations.IdleAndNop : Prop :=
  ∀ s u : State,
    (∀ r, exec (.nop (.reg r)) s = .next s.sequenced)
      ∧ (∀ i d w, s.sequenced.fetch .plain (.ind i d) = .ok w u → exec (.nop (.ind i d)) s = .next u)
      ∧ (∀ m w,
          let a := s.memAddr m
          let low : State := if s.onBus a = true then { s with iack := false } else s
          low.sequenced.fetch .plain m = .ok w u →
          exec (.iack m) s
            = .next (if s.onBus a = true then { u with iack := true, outputs := u.outputs ++ [.iack a] } else u))
      ∧ (∀ a : Word, s.onBus a = selectsStrobe s.pins.romen a)
      ∧ exec .idle s = .next { s.sequenced with st := s.sequenced.st ||| 0x2000, phase := .idle }
      ∧ exec .idle2 s = .next { s.sequenced with st := s.sequenced.st ||| 0x2000, phase := .idle2 }

/-! ### Interlocked instructions -/

/-- The interlocked loads and stores do what LDF, LDI, STF and STI do, and drive the lock signal of the bus that their
address selects: low from the start of LDFI, LDII and SIGI, high at the end of SIGI, STFI and STII (44 R425–R433). SIGI reads
with its own code on the status pins. LOCK# belongs to the global bus, 8000 0000h and up, LLOCK# to the addresses of the local
bus that select a strobe, which reserved ones do not (20 R121; log 10); another address moves neither. That STII is an
interlocked store whatever the level of its lock signal is the model's choice (log 28). -/
def Obligations.Interlocked : Prop :=
  (∀ (s u : State) (m : Mem) (w : Word),
    let low := s.setLock (s.memAddr m) false
    let a := low.sequenced.memAddr m
    let b := s.sequenced.memAddr m
    (∀ dst, low.sequenced.fetch .interlocked m = .ok w u → exec (.ldii dst m) s = .next (u.result dst (plainOutcome w none)))
      ∧ (∀ dst, low.sequenced.fetch .plain m = .ok w u →
          exec (.ldfi dst m) s = .next (u.resultF dst (w ++ (0 : BitVec 8),
            { v := false, uf := false, luf := false, c := none
              n := w.getLsbD 23 && decide (w.extractLsb' 24 8 ≠ 0x80), z := decide (w.extractLsb' 24 8 = 0x80) })))
      ∧ (∀ dst, low.sequenced.fetch .sigi m = .ok w u →
          exec (.sigi dst m) s = .next ((u.setLock a true).result dst (plainOutcome w none)))
      ∧ (∀ src, memWrite .interlocked b (s.sequenced.get src) (s.sequenced.memUpdate m) = .ok () u →
          exec (.stii src m) s = .next (u.setLock b true))
      ∧ ∀ src, memWrite .plain b ((s.sequenced.getF src).extractLsb' 8 32) (s.sequenced.memUpdate m) = .ok () u →
          exec (.stfi src m) s = .next (u.setLock b true))
    ∧ ∀ (s : State) (a : Word) (level : Bool),
        let t := s.setLock a level
        (0x80000000 ≤ a.toNat → t.lockGlobal = level ∧ t.lockLocal = s.lockLocal)
          ∧ (a.toNat < 0x80000000 → selectsStrobe s.pins.romen a = true → t.lockLocal = level ∧ t.lockGlobal = s.lockGlobal)
          ∧ (selectsStrobe s.pins.romen a = false → t = s)
          ∧ t.mem = s.mem ∧ t.dev = s.dev ∧ t.r = s.r ∧ t.ar = s.ar ∧ t.sp = s.sp ∧ t.st = s.st ∧ t.pc = s.pc

/-! ### Parallel instructions -/

/-- Two loads, two stores, or a load and a store at once (45 R450, R451, R459, R460, R465, R466): both addresses from the
registers before the instruction, the stored registers read before any load; no flag changes. -/
def Obligations.ParallelMoves : Prop :=
  ∀ (s u : State),
    let t := s.sequenced
    (∀ o x y, t.fetchInd2 o.src1 o.src2 = .ok (x, y) u →
        exec (.ldfLdf o) s = .next ((u.putF (fregOf o.dst1) (x ++ (0 : BitVec 8))).putF (fregOf o.dst2) (y ++ (0 : BitVec 8)))
          ∧ exec (.ldiLdi o) s = .next ((u.put (.r (fregOf o.dst1)) x).put (.r (fregOf o.dst2)) y))
      ∧ (∀ o x w, memRead .plain (t.indAddr o.src2 implied) (t.indUpdate2 o.dst2 o.src2) = .ok x w →
          memWrite .plain (t.indAddr o.dst2 implied) ((t.getF (fregOf o.src3)).extractLsb' 8 32) w = .ok () u →
          exec (.ldfStf o) s = .next (u.putF (fregOf o.dst1) (x ++ (0 : BitVec 8))))
      ∧ (∀ o x w, memRead .plain (t.indAddr o.src2 implied) (t.indUpdate2 o.dst2 o.src2) = .ok x w →
          memWrite .plain (t.indAddr o.dst2 implied) (t.get (.r (fregOf o.src3))) w = .ok () u →
          exec (.ldiSti o) s = .next (u.put (.r (fregOf o.dst1)) x))
      ∧ (∀ o w, memWrite .plain (t.indAddr o.dst1 implied) ((t.getF (fregOf o.src1)).extractLsb' 8 32)
            (t.indUpdate2 o.dst1 o.dst2) = .ok () w →
          memWrite .plain (t.indAddr o.dst2 implied) ((t.getF (fregOf o.src2)).extractLsb' 8 32) w = .ok () u →
          exec (.stfStf o) s = .next u)
      ∧ ∀ o w, memWrite .plain (t.indAddr o.dst1 implied) (t.get (.r (fregOf o.src1))) (t.indUpdate2 o.dst1 o.dst2)
            = .ok () w →
          memWrite .plain (t.indAddr o.dst2 implied) (t.get (.r (fregOf o.src2))) w = .ok () u →
          exec (.stiSti o) s = .next u

/-- An integer operation with a store (45 R442, R444–R447, R452, R454, R456–R458, R462, R464): the memory word x is read,
src3 stored, and the result written with its flags; the shifts take their count from the register, SUBI3 subtracts the
register from the memory word. -/
def Obligations.ParallelInteger : Prop :=
  ∀ (s w u : State) (x : Word),
    let t := s.sequenced
    let ovm := t.st.getLsbD 7
    (∀ o : ParStore, memRead .plain (t.indAddr o.src2 implied) (t.indUpdate2 o.dst2 o.src2) = .ok x w →
        memWrite .plain (t.indAddr o.dst2 implied) (t.get (.r (fregOf o.src3))) w = .ok () u →
        let d := Reg.r (fregOf o.dst1)
        exec (.absiSti o) s
            = .next (u.result d ((intOutcome ovm x.toInt.natAbs none).1,
                { (intOutcome ovm x.toInt.natAbs none).2 with n := false }))
          ∧ exec (.negiSti o) s = .next (u.result d (intOutcome ovm (-x.toInt) (some (decide (0 < x.toNat)))))
          ∧ exec (.notSti o) s = .next (u.result d (plainOutcome (~~~x) none))
          ∧ exec (.fixSti o) s = .next (u.result d (fixInt (x ++ (0 : BitVec 8)))))
      ∧ ∀ o : ParStore3, memRead .plain (t.indAddr o.src2 implied) (t.indUpdate2 o.dst2 o.src2) = .ok x w →
        memWrite .plain (t.indAddr o.dst2 implied) (t.get (.r (fregOf o.src3))) w = .ok () u →
        let d := Reg.r (fregOf o.dst1)
        let a := t.get (.r (fregOf o.src1))
        exec (.addi3Sti o) s
            = .next (u.result d (intOutcome ovm (a.toInt + x.toInt) (some (decide (2 ^ 32 ≤ a.toNat + x.toNat)))))
          ∧ exec (.subi3Sti o) s
            = .next (u.result d (intOutcome ovm (x.toInt - a.toInt) (some (decide (x.toNat < a.toNat)))))
          ∧ exec (.mpyi3Sti o) s = .next (u.result d (intOutcome ovm (a.toInt * x.toInt) none))
          ∧ exec (.and3Sti o) s = .next (u.result d (plainOutcome (a &&& x) none))
          ∧ exec (.or3Sti o) s = .next (u.result d (plainOutcome (a ||| x) none))
          ∧ exec (.xor3Sti o) s = .next (u.result d (plainOutcome (a ^^^ x) none))
          ∧ exec (.ash3Sti o) s = .next (u.result d (ashInt x a))
          ∧ exec (.lsh3Sti o) s = .next (u.result d (lshInt x a))

/-- A floating-point operation with a store (45 R441, R443, R448, R449, R453, R455, R461, R463): the memory word is widened,
or read as an integer or an IEEE number; SUBF3 subtracts the register from it; the stored register is read first. -/
def Obligations.ParallelFloat : Prop :=
  ∀ (s w u : State) (x : Word),
    let t := s.sequenced
    let b := Machine.Num.ofExt (x ++ (0 : BitVec 8))
    (∀ o : ParStore, memRead .plain (t.indAddr o.src2 implied) (t.indUpdate2 o.dst2 o.src2) = .ok x w →
        memWrite .plain (t.indAddr o.dst2 implied) ((t.getF (fregOf o.src3)).extractLsb' 8 32) w = .ok () u →
        let d := fregOf o.dst1
        exec (.absfStf o) s = .next (u.resultF d (floatOutcome b.man.natAbs b.exp))
          ∧ exec (.negfStf o) s = .next (u.resultF d (floatOutcome (-b.man) b.exp))
          ∧ exec (.floatStf o) s = .next (u.resultF d (floatOutcome x.toInt 31))
          ∧ exec (.frieeeStf o) s = .next (u.resultF d (fromIeee x))
          ∧ exec (.toieeeStf o) s = .next (u.resultF d (toIeee (x ++ (0 : BitVec 8)))))
      ∧ ∀ o : ParStore3, memRead .plain (t.indAddr o.src2 implied) (t.indUpdate2 o.dst2 o.src2) = .ok x w →
        memWrite .plain (t.indAddr o.dst2 implied) ((t.getF (fregOf o.src3)).extractLsb' 8 32) w = .ok () u →
        let d := fregOf o.dst1
        let a := Machine.Num.ofExt (t.getF (fregOf o.src1))
        exec (.addf3Stf o) s = .next (u.resultF d (floatFinish (a.add b)))
          ∧ exec (.subf3Stf o) s = .next (u.resultF d (floatFinish (b.add ⟨-a.man, a.exp⟩)))
          ∧ exec (.mpyf3Stf o) s = .next (u.resultF d (floatOutcome (a.man * b.man) (a.exp + b.exp - 31)))

/-- The multiply-add pairs: by P the product takes src3·src4, src3·src1, src1·src2 or src3·src1 and the sum src1, src2 or
the other pair, first minus second for the subtracting ones; V, UF and their latches from either half, N = Z = 0, C unchanged
(45 R467–R470). -/
def Obligations.MultiplyAddPairs : Prop :=
  ∀ (s u : State) (o : MulAdd) (x y : Word), s.sequenced.fetchInd2 o.src3 o.src4 = .ok (x, y) u →
    let t := s.sequenced
    let pick := fun {α : Type} (r1 r2 m3 m4 : α) =>
      (if o.p = 0b00 then ((m3, m4), (r1, r2)) else if o.p = 0b01 then ((m3, r1), (m4, r2))
       else if o.p = 0b10 then ((r1, r2), (m3, m4)) else ((m3, r1), (r2, m4)) : (α × α) × (α × α))
    let p : FReg := if o.d1 = true then 1 else 0
    let q : FReg := if o.d2 = true then 3 else 2
    let flags := fun f g : Flags => ({ v := f.v || g.v, uf := f.uf || g.uf, luf := f.uf || g.uf, n := false, z := false } : Flags)
    let i := pick (t.get (.r (fregOf o.src1))) (t.get (.r (fregOf o.src2))) x y
    let f := pick (t.getF (fregOf o.src1)) (t.getF (fregOf o.src2)) (x ++ (0 : BitVec 8)) (y ++ (0 : BitVec 8))
    let ovm := t.st.getLsbD 7
    let m := intOutcome ovm (i.1.1.toInt * i.1.2.toInt) none
    let n := floatMul f.1.1 f.1.2
    let ia := intOutcome ovm (i.2.1.toInt + i.2.2.toInt) none
    let is := intOutcome ovm (i.2.1.toInt - i.2.2.toInt) none
    let fa := floatAdd f.2.1 f.2.2
    let fs := floatSub f.2.1 f.2.2
    exec (.mpyi3Addi3 o) s = .next (((u.setFlags (flags m.2 ia.2)).put (.r p) m.1).put (.r q) ia.1)
      ∧ exec (.mpyi3Subi3 o) s = .next (((u.setFlags (flags m.2 is.2)).put (.r p) m.1).put (.r q) is.1)
      ∧ exec (.mpyf3Addf3 o) s = .next (((u.setFlags (flags n.2 fa.2)).putF p n.1).putF q fa.1)
      ∧ exec (.mpyf3Subf3 o) s = .next (((u.setFlags (flags n.2 fs.2)).putF p n.1).putF q fs.1)

/-! ### Interrupts -/

/-- Taking interrupt v (60 R652): its flag is cleared, GIE and CF are saved in PGIE and PCF, GIE is cleared and CF set, the
program counter is pushed, and the word at IVTP + v becomes the program counter; the core leaves IDLE. IACK# is not driven (60
R662), nor is anything shown outside; that 10 R49's pulse on interrupt acknowledge is that of the IACK instruction in the handler
is the model's reading (log 20, DEDUCED). That the vector is read before the push is the spec's decision D65 (log 20); the slots
25h–2Bh and their flag bits are those the spec takes from the family (log 19, PRESUMED). Here with the vector table and the stack
in on-chip RAM. A step on a core that takes an interrupt and whose turn it is is that entry; where a read or push of it is not
ready the core stays in the entry with the flag cleared, and a later step goes on with it (log 13, DEDUCED). -/
def Obligations.InterruptEntry : Prop :=
  (∀ (s : State) (rest : List Input) (v : Nat),
    let x := ({ s.sample with inputs := rest } : State).forward
    (s.inputs = [] ∧ rest = [] ∨ s.inputs = .cpu :: rest) →
    (s.entering = none → x.taken = some v →
        (∀ t, x.interrupt v = .ok () t → step s = .next t)
          ∧ ∀ w, x.interrupt v = .wait w →
              step s = .next { x.acknowledge v with entering := some v, waiting := some w })
      ∧ (s.entering = some v →
          (∀ t, x.serve v = .ok () t → step s = .next t ∧ t.entering = none)
            ∧ ∀ w, x.serve v = .wait w → step s = .next { x with entering := some v, waiting := some w }))
  ∧ ∀ (s : State) (v : Nat),
    let a := (s.ivtp &&& 0xFFFFFE00) + (BitVec.ofNat 9 v).setWidth 32
    region s.pins.romen a = .ram → region s.pins.romen (s.sp + 1) = .ram →
    ∃ t, s.interrupt v = .ok () t ∧ t.pc = Memory.readWord s.mem a ∧ t.sp = s.sp + 1
      ∧ t.mem = Memory.writeWord s.mem (s.sp + 1) s.pc ∧ t.phase = .running
      ∧ t.st.getLsbD 14 = s.st.getLsbD 13 ∧ t.st.getLsbD 9 = s.st.getLsbD 10 ∧ t.st.getLsbD 13 = false
      ∧ t.st.getLsbD 10 = true ∧ (∀ b, b ∉ [9, 10, 13, 14] → t.st.getLsbD b = s.st.getLsbD b)
      ∧ (v = 1 → t.iif.getLsbD 16 = false) ∧ (v = 2 → t.iif.getLsbD 24 = false)
      ∧ (0x25 ≤ v → v ≤ 0x2B → t.iif.getLsbD (v - 0x25 + 25) = false)
      ∧ (∀ x : Fin 4, v = 3 + x.val → s.iif.getLsbD (4 * x.val + 1) = false → t.iif.getLsbD (4 * x.val + 2) = false)
      ∧ (∀ x : Fin 4, v = 3 + x.val → s.iif.getLsbD (4 * x.val + 1) = true → t.ackPending.getLsbD x.val = true)
      ∧ t.iack = s.iack ∧ t.outputs = s.outputs
      ∧ t.r = s.r ∧ t.ar = s.ar ∧ t.ivtp = s.ivtp ∧ t.tvtp = s.tvtp

/-- Which interrupt is taken (60 R652, R654, R655): one that is pending and enabled and has the smallest vector of these; none
while a delayed branch is in flight, an RPTS repeats or an access waits; with GIE = 0 only NMI. IDLE takes them alike, but not
while an entry out of it waits (60 R663). IDLE2 takes none itself: that a request first ends it and is taken as in IDLE is the
model's reading of 43 R396 (log 20), and that a stuck core takes none is part of the spec's decision D41 (log 11). The table of
60 R651: the vectors 1–6 and 0Dh–2Bh, the flag of IIF or the condition of a port that makes each pending, the bit of IIE or IIF
that enables it under GIE, NMI always (10 R43, R44; 65 R512); a request the DMA took and the CPU shares counts as pending (60
R659, log 20). The flag of an edge pin is stored, that of a level pin is 1 while the line is low or software has just raised it,
but for the step after an acknowledge (60 R657, log 19). The slots of ports and DMA and most bits of IIE are those the spec
takes from the family (log 19, PRESUMED). -/
def Obligations.InterruptPriority : Prop :=
  (∀ s : State, s.phase = .running →
    (∀ v, s.taken = some v → v ∈ vectors ∧ s.pending v = true ∧ s.enabled v = true
        ∧ (∀ w ∈ vectors, w < v → (s.pending w && s.enabled w) = false)
        ∧ s.delay = none ∧ s.waiting = none ∧ (s.repeatMode && s.repeatSingle) = false
        ∧ (s.st.getLsbD 13 = false → v = 1))
      ∧ (s.taken = none → s.delay = none → s.waiting = none → (s.repeatMode && s.repeatSingle) = false →
          ∀ v ∈ vectors, (s.pending v && s.enabled v) = false))
    ∧ (∀ s : State, (s.phase = .idle2 ∨ s.phase = .stuck → s.taken = none)
        ∧ (s.phase = .idle → s.entering ≠ none → s.taken = none)
        ∧ (s.phase = .idle → s.entering = none →
            (∀ v, s.taken = some v ↔ v ∈ vectors ∧ s.pending v = true ∧ s.enabled v = true
                ∧ ∀ w ∈ vectors, w < v → (s.pending w && s.enabled w) = false)
              ∧ (s.taken = none ↔ ∀ v ∈ vectors, (s.pending v && s.enabled v) = false)))
    ∧ (∀ v, v ∈ vectors ↔ 1 ≤ v ∧ v ≤ 6 ∨ 0x0D ≤ v ∧ v ≤ 0x2B)
    ∧ ∀ s : State,
        let gie := s.st.getLsbD 13
        let flag := fun b : Nat => s.iif.getLsbD b || s.claimed.getLsbD b
        (s.pending 1 = flag 16 ∧ s.enabled 1 = true)
          ∧ (s.pending 2 = flag 24 ∧ s.enabled 2 = (gie && s.iie.getLsbD 0))
          ∧ (∀ n, n < 7 → s.pending (0x25 + n) = flag (25 + n) ∧ s.enabled (0x25 + n) = (gie && s.iie.getLsbD (25 + n)))
          ∧ (∀ k : Fin 6,
              let p := s.dev.ports[k]
              s.pending (0x0D + 4 * k.val) = decide (8 ≤ p.inFifo.length)
                ∧ s.pending (0x0E + 4 * k.val) = decide (p.inFifo ≠ [])
                ∧ s.pending (0x0F + 4 * k.val) = decide (p.outFifo.length < 8)
                ∧ s.pending (0x10 + 4 * k.val) = decide (p.outFifo = [])
                ∧ ∀ j, j < 4 → s.enabled (0x0D + 4 * k.val + j) = (gie && s.iie.getLsbD (4 * k.val + 1 + j)))
          ∧ ∀ x : Fin 4,
              let func := s.iif.getLsbD (4 * x.val)
              let type := s.iif.getLsbD (4 * x.val + 1)
              let shared := s.claimed.getLsbD (4 * x.val + 2)
              let line := if connectedTo s.dev.rc s.pins.core2 (iiofDevice x) = true then !s.dev.request (iiofDevice x)
                else s.pins.iiof.getLsbD x.val
              s.enabled (3 + x.val) = (gie && s.iif.getLsbD (4 * x.val + 3))
                ∧ (func = false → s.pending (3 + x.val) = shared)
                ∧ (func = true → type = false → s.pending (3 + x.val) = flag (4 * x.val + 2))
                ∧ (func = true → type = true → s.pending (3 + x.val)
                    = ((!line || s.levelRaise.getLsbD x.val) && !s.levelAck.getLsbD x.val || shared))

/-- A return undoes an entry: after an interrupt is taken with its stack in on-chip RAM, an unconditional RETI from the
handler's state resumes at the interrupted instruction with SP, GIE and CF as they were (60 R658, 43 R366). -/
def Obligations.ReturnUndoesEntry : Prop :=
  ∀ (s t : State) (v : Nat), Memory.wf s.mem = true → s.delay = none → s.repeatMode = false →
    region s.pins.romen ((s.ivtp &&& 0xFFFFFE00) + (BitVec.ofNat 9 v).setWidth 32) = .ram →
    region s.pins.romen (s.sp + 1) = .ram → s.interrupt v = .ok () t →
    ∃ u, exec (.retiCond .u) t = .next u ∧ u.pc = s.pc ∧ u.sp = s.sp
      ∧ u.st.getLsbD 13 = s.st.getLsbD 13 ∧ u.st.getLsbD 10 = s.st.getLsbD 10
      ∧ ∀ b, b ∉ [9, 14] → u.st.getLsbD b = s.st.getLsbD b

/-! ### Devices -/

/-- The commutator (66 R561, R562), where LSTRB0 covers it (20 R124): an interlocked read of RS gives 0 and takes it unless the
other core holds it, a plain read gives 1; RC changes only while this core holds it; an interlocked write of RS gives it back.
That the holder's second interlocked read gives 0 again is the model's choice, and that an interlocked write by a core that
does not hold RS does nothing is its reading (log 33). Each access shows its cycle on the local bus. -/
def Obligations.Commutator : Prop :=
  ∀ (s : State) (v : Word), strobe0 s 0x00300000 = true → strobe0 s 0x00300001 = true →
    memRead .plain 0x00300000 s = .ok 1 (s.shows .plain 0x00300000 none s)
      ∧ (s.dev.owner = .other → memRead .interlocked 0x00300000 s = .ok 1 (s.shows .interlocked 0x00300000 none s))
      ∧ (s.dev.owner ≠ .other →
          memRead .interlocked 0x00300000 s
            = .ok 0 (s.shows .interlocked 0x00300000 none { s with dev := { s.dev with owner := .mine } }))
      ∧ memRead .plain 0x00300001 s = .ok (s.dev.rc.setWidth 32) (s.shows .plain 0x00300001 none s)
      ∧ (s.dev.owner = .mine →
          memWrite .plain 0x00300001 v s
              = .ok () (s.shows .plain 0x00300001 (some v) { s with dev := { s.dev with rc := v.setWidth 8 } })
            ∧ memWrite .interlocked 0x00300000 v s
              = .ok () (s.shows .interlocked 0x00300000 (some v) { s with dev := { s.dev with owner := .free } }))
      ∧ (s.dev.owner ≠ .mine →
          memWrite .plain 0x00300001 v s = .ok () (s.shows .plain 0x00300001 (some v) s)
            ∧ memWrite .interlocked 0x00300000 v s = .ok () (s.shows .interlocked 0x00300000 (some v) s))
      ∧ ∀ (k : Access) (a : Word) (w : Option Word) (t : State), ∃ g l o,
          s.shows k a w t = { t with globalBus := g, localBus := l, outputs := o }

/-- The FIFOs of a port (65 R510, R513): a CPU read takes the oldest word, an empty FIFO makes it wait; a write appends a
word, a full FIFO makes it wait; arriving words are appended while there is room. While a DMA access to such a FIFO waits it
holds the peripheral bus, and a CPU read or write of any of the port's four registers waits too (log 13, DEDUCED). -/
def Obligations.PortFifos : Prop :=
  ∀ (s : State) (k : Fin 6) (v : Word),
    let p := s.dev.ports[k]
    let base : Word := 0x00100040 + BitVec.ofNat 32 (16 * k.val)
    ((s.dmaHeld.any fun h => h.why == .fifo) = true →
        ∀ n : BitVec 2, memRead .plain (base + n.setWidth 32) s = .wait .peripheral
          ∧ memWrite .plain (base + n.setWidth 32) v s = .wait .peripheral)
      ∧ ((s.dmaHeld.any fun h => h.why == .fifo) = false → s.dev.busGrant = false →
        (∀ x xs, p.inFifo = x :: xs →
            ∃ q : Port, q.inFifo = xs ∧ q.outFifo = p.outFifo
              ∧ memRead .plain (base + 1) s = .ok x { s with dev := { s.dev with ports := s.dev.ports.set k q } })
          ∧ (p.inFifo = [] → memRead .plain (base + 1) s = .wait .fifo)
          ∧ (p.outFifo.length < 8 → ∃ t, memWrite .plain (base + 2) v s = .ok () t
              ∧ (t.dev.ports[k]).outFifo = p.outFifo ++ [v] ∧ (t.dev.ports[k]).inFifo = p.inFifo)
          ∧ (8 ≤ p.outFifo.length → memWrite .plain (base + 2) v s = .wait .fifo))
      ∧ (p.input = true → p.ich = false → p.inFifo.length < 8 → (p.receive v).inFifo = p.inFifo ++ [v])
end

