-- ==== Sys2Proof/Laws/Memory.lean ====
section
/-! SUPPORT. Memory: reading back what was written, and the canonical form kept. -/

namespace Sys2Proof.Machine

/-- In canonical form the rest of the list is canonical, its keys are larger, and its head is no unlisted value. -/
theorem Memory.wf_cons {b : Nat} {w : Byte} {t : List Host.Cell} :
    Memory.wf ((b, w) :: t) = true ↔ w ≠ Memory.unlisted ∧ (∀ c ∈ t, b < c.1) ∧ Memory.wf t = true := by
  simp [Memory.wf, and_assoc]

/-- A key below every listed one reads as an unlisted address. -/
theorem Memory.get_below {a : Nat} : ∀ {m : List Host.Cell}, (∀ c ∈ m, a < c.1) → Memory.get m a = Memory.unlisted
  | [], _ => rfl
  | (b, w) :: t, h => by
      have hb : a < b := h _ List.mem_cons_self
      rw [Memory.get, if_neg (by omega)]
      exact Memory.get_below fun c hc => h c (List.mem_cons_of_mem _ hc)

/-- The keys after a write are old keys or the written one. -/
theorem Memory.mem_set {a : Nat} {v : Byte} {c : Host.Cell} : ∀ {m : List Host.Cell}, c ∈ Memory.set m a v →
    c ∈ m ∨ c = (a, v)
  | [], h => by
      unfold Memory.set at h
      split at h <;> simp_all
  | (b, w) :: t, h => by
      unfold Memory.set at h
      split at h
      · split at h
        · exact .inl h
        · rcases List.mem_cons.1 h with h | h
          · exact .inr h
          · exact .inl h
      · split at h
        · split at h
          · exact .inl (List.mem_cons_of_mem _ h)
          · rcases List.mem_cons.1 h with h | h
            · exact .inr h
            · exact .inl (List.mem_cons_of_mem _ h)
        · rcases List.mem_cons.1 h with h | h
          · exact .inl (h ▸ List.mem_cons_self)
          · exact (Memory.mem_set h).imp_left (List.mem_cons_of_mem _)

/-- A byte write keeps the canonical form. -/
theorem Memory.wf_set (a : Nat) (v : Byte) : ∀ {m : List Host.Cell}, Memory.wf m = true →
    Memory.wf (Memory.set m a v) = true
  | [], _ => by
      unfold Memory.set
      split
      · rfl
      · exact Memory.wf_cons.2 ⟨‹_›, by simp, rfl⟩
  | (b, w) :: t, h => by
      obtain ⟨hw, hlt, ht⟩ := Memory.wf_cons.1 h
      unfold Memory.set
      split
      · split
        · exact h
        · refine Memory.wf_cons.2 ⟨‹_›, fun c hc => ?_, h⟩
          rcases List.mem_cons.1 hc with rfl | hc
          · assumption
          · exact Nat.lt_trans ‹_› (hlt c hc)
      · split
        · split
          · exact ht
          · exact Memory.wf_cons.2 ⟨‹_›, by subst a; exact hlt, ht⟩
        · refine Memory.wf_cons.2 ⟨hw, fun c hc => ?_, Memory.wf_set a v ht⟩
          rcases Memory.mem_set hc with hc | rfl
          · exact hlt c hc
          · show b < a
            omega

/-- A byte reads back as written, and every other byte reads as before. -/
theorem Memory.get_set (a k : Nat) (v : Byte) : ∀ {m : List Host.Cell}, Memory.wf m = true →
    Memory.get (Memory.set m a v) k = if k = a then v else Memory.get m k
  | [], _ => by
      unfold Memory.set
      split
      · rename_i hv
        by_cases hk : k = a <;> simp [Memory.get, hk, hv]
      · rfl
  | (b, w) :: t, h => by
      obtain ⟨hw, hlt, ht⟩ := Memory.wf_cons.1 h
      unfold Memory.set
      split
      · rename_i hab
        split
        · rename_i hv
          by_cases hk : k = a
          · subst hk
            rw [if_pos rfl, hv, Memory.get, if_neg (by omega)]
            exact Memory.get_below fun c hc => Nat.lt_trans hab (hlt c hc)
          · rw [if_neg hk]
        · rw [Memory.get]
      · split
        · rename_i hab
          subst hab
          split
          · rename_i hv
            by_cases hk : k = a
            · subst hk
              rw [if_pos rfl, hv]
              exact Memory.get_below hlt
            · rw [if_neg hk, Memory.get, if_neg hk]
          · by_cases hk : k = a <;> simp [Memory.get, hk]
        · rw [Memory.get, Memory.get]
          split
          · rw [if_neg (by omega)]
          · exact Memory.get_set a k v ht

/-- A word write keeps the canonical form. -/
theorem Memory.wf_writeWord {m : List Host.Cell} (h : Memory.wf m = true) (a v : Word) :
    Memory.wf (Memory.writeWord m a v) = true :=
  Memory.wf_set _ _ (Memory.wf_set _ _ (Memory.wf_set _ _ (Memory.wf_set _ _ h)))

/-- A byte after a word write: byte i of the word at the four keys of its address, the old byte elsewhere. -/
theorem Memory.get_writeWord {m : List Host.Cell} (h : Memory.wf m = true) (a v : Word) (k : Nat) :
    Memory.get (Memory.writeWord m a v) k =
      if k = byteKey a 3 then v.extractLsb' 24 8 else if k = byteKey a 2 then v.extractLsb' 16 8
      else if k = byteKey a 1 then v.extractLsb' 8 8 else if k = byteKey a 0 then v.extractLsb' 0 8
      else Memory.get m k := by
  have h0 := Memory.wf_set (byteKey a 0) (v.extractLsb' 0 8) h
  have h1 := Memory.wf_set (byteKey a 1) (v.extractLsb' 8 8) h0
  have h2 := Memory.wf_set (byteKey a 2) (v.extractLsb' 16 8) h1
  simp only [Memory.writeWord, Memory.get_set _ _ _ h2, Memory.get_set _ _ _ h1, Memory.get_set _ _ _ h0,
    Memory.get_set _ _ _ h]

/-- A byte outside a written word reads as before. -/
theorem Memory.get_writeWord_of_not_mem {m : List Host.Cell} (h : Memory.wf m = true) (a v : Word) (k : Nat)
    (hk : ¬(4 * a.toNat ≤ k ∧ k < 4 * a.toNat + 4)) : Memory.get (Memory.writeWord m a v) k = Memory.get m k := by
  rw [Memory.get_writeWord h]
  have out : ∀ i, i < 4 → ¬k = byteKey a i := fun i hi e => by unfold byteKey at e; omega
  rw [if_neg (out 3 (by omega)), if_neg (out 2 (by omega)), if_neg (out 1 (by omega)), if_neg (out 0 (by omega))]

/-- A word is its four bytes. -/
theorem word_of_bytes (v : Word) :
    v.extractLsb' 24 8 ++ v.extractLsb' 16 8 ++ v.extractLsb' 8 8 ++ v.extractLsb' 0 8 = v := by
  refine BitVec.eq_of_getLsbD_eq fun i hi => ?_
  simp only [BitVec.getLsbD_append, BitVec.getLsbD_extractLsb']
  split
  · simp only [Nat.zero_add]
    simp [*]
  · split
    · rename_i h1 h2
      rw [show 8 + (i - 8) = i by omega]; simp [h2]
    · split
      · rename_i h1 h2 h3
        rw [show 16 + (i - 8 - 8) = i by omega]; simp [h3]
      · rename_i h1 h2 h3
        rw [show 24 + (i - 8 - 8 - 8) = i by omega]
        simp; omega

/-- A word reads back as written. -/
theorem Memory.readWord_writeWord {m : List Host.Cell} (h : Memory.wf m = true) (a v : Word) :
    Memory.readWord (Memory.writeWord m a v) a = v := by
  simp only [Memory.readWord, Memory.get_writeWord h, byteKey]
  simp only [Nat.add_left_cancel_iff, Nat.reduceEqDiff, if_true, if_false]
  exact word_of_bytes v

/-- A word at another address reads as before. -/
theorem Memory.readWord_writeWord_ne {m : List Host.Cell} (h : Memory.wf m = true) {a b : Word} (hab : b ≠ a)
    (v : Word) : Memory.readWord (Memory.writeWord m a v) b = Memory.readWord m b := by
  have hn : b.toNat ≠ a.toNat := fun e => hab (BitVec.eq_of_toNat_eq e)
  simp only [Memory.readWord, byteKey]
  rw [Memory.get_writeWord_of_not_mem h, Memory.get_writeWord_of_not_mem h, Memory.get_writeWord_of_not_mem h,
    Memory.get_writeWord_of_not_mem h] <;> omega

end Sys2Proof.Machine
end

