-- ==== Sys2Proof/Laws/State.lean ====
section
/-! SUPPORT. One lemma per field and per update of the state: what an update leaves alone. Generated from the list of
fields and the list of updates; what an update writes is said in Laws/Writes.lean. -/

namespace Sys2Proof.Machine

/-! ### putF -/

@[simp] theorem State.putF_ar (s : State) (n : FReg) (v : Ext) : (s.putF n v).ar = s.ar := rfl
@[simp] theorem State.putF_dp (s : State) (n : FReg) (v : Ext) : (s.putF n v).dp = s.dp := rfl
@[simp] theorem State.putF_ir0 (s : State) (n : FReg) (v : Ext) : (s.putF n v).ir0 = s.ir0 := rfl
@[simp] theorem State.putF_ir1 (s : State) (n : FReg) (v : Ext) : (s.putF n v).ir1 = s.ir1 := rfl
@[simp] theorem State.putF_bk (s : State) (n : FReg) (v : Ext) : (s.putF n v).bk = s.bk := rfl
@[simp] theorem State.putF_sp (s : State) (n : FReg) (v : Ext) : (s.putF n v).sp = s.sp := rfl
@[simp] theorem State.putF_st (s : State) (n : FReg) (v : Ext) : (s.putF n v).st = s.st := rfl
@[simp] theorem State.putF_die (s : State) (n : FReg) (v : Ext) : (s.putF n v).die = s.die := rfl
@[simp] theorem State.putF_iie (s : State) (n : FReg) (v : Ext) : (s.putF n v).iie = s.iie := rfl
@[simp] theorem State.putF_iif (s : State) (n : FReg) (v : Ext) : (s.putF n v).iif = s.iif := rfl
@[simp] theorem State.putF_rs (s : State) (n : FReg) (v : Ext) : (s.putF n v).rs = s.rs := rfl
@[simp] theorem State.putF_re (s : State) (n : FReg) (v : Ext) : (s.putF n v).re = s.re := rfl
@[simp] theorem State.putF_rc (s : State) (n : FReg) (v : Ext) : (s.putF n v).rc = s.rc := rfl
@[simp] theorem State.putF_ivtp (s : State) (n : FReg) (v : Ext) : (s.putF n v).ivtp = s.ivtp := rfl
@[simp] theorem State.putF_tvtp (s : State) (n : FReg) (v : Ext) : (s.putF n v).tvtp = s.tvtp := rfl
@[simp] theorem State.putF_pc (s : State) (n : FReg) (v : Ext) : (s.putF n v).pc = s.pc := rfl
@[simp] theorem State.putF_repeatSingle (s : State) (n : FReg) (v : Ext) : (s.putF n v).repeatSingle = s.repeatSingle :=
  rfl
@[simp] theorem State.putF_ir (s : State) (n : FReg) (v : Ext) : (s.putF n v).ir = s.ir := rfl
@[simp] theorem State.putF_irHeld (s : State) (n : FReg) (v : Ext) : (s.putF n v).irHeld = s.irHeld := rfl
@[simp] theorem State.putF_delay (s : State) (n : FReg) (v : Ext) : (s.putF n v).delay = s.delay := rfl
@[simp] theorem State.putF_busy (s : State) (n : FReg) (v : Ext) : (s.putF n v).busy = s.busy := rfl
@[simp] theorem State.putF_phase (s : State) (n : FReg) (v : Ext) : (s.putF n v).phase = s.phase := rfl
@[simp] theorem State.putF_entering (s : State) (n : FReg) (v : Ext) : (s.putF n v).entering = s.entering := rfl
@[simp] theorem State.putF_lockGlobal (s : State) (n : FReg) (v : Ext) : (s.putF n v).lockGlobal = s.lockGlobal := rfl
@[simp] theorem State.putF_lockLocal (s : State) (n : FReg) (v : Ext) : (s.putF n v).lockLocal = s.lockLocal := rfl
@[simp] theorem State.putF_iack (s : State) (n : FReg) (v : Ext) : (s.putF n v).iack = s.iack := rfl
@[simp] theorem State.putF_globalBus (s : State) (n : FReg) (v : Ext) : (s.putF n v).globalBus = s.globalBus := rfl
@[simp] theorem State.putF_localBus (s : State) (n : FReg) (v : Ext) : (s.putF n v).localBus = s.localBus := rfl
@[simp] theorem State.putF_cache (s : State) (n : FReg) (v : Ext) : (s.putF n v).cache = s.cache := rfl
@[simp] theorem State.putF_dev (s : State) (n : FReg) (v : Ext) : (s.putF n v).dev = s.dev := rfl
@[simp] theorem State.putF_pins (s : State) (n : FReg) (v : Ext) : (s.putF n v).pins = s.pins := rfl
@[simp] theorem State.putF_board (s : State) (n : FReg) (v : Ext) : (s.putF n v).board = s.board := rfl
@[simp] theorem State.putF_romImage (s : State) (n : FReg) (v : Ext) : (s.putF n v).romImage = s.romImage := rfl
@[simp] theorem State.putF_mem (s : State) (n : FReg) (v : Ext) : (s.putF n v).mem = s.mem := rfl
@[simp] theorem State.putF_nmiLast (s : State) (n : FReg) (v : Ext) : (s.putF n v).nmiLast = s.nmiLast := rfl
@[simp] theorem State.putF_iiofLast (s : State) (n : FReg) (v : Ext) : (s.putF n v).iiofLast = s.iiofLast := rfl
@[simp] theorem State.putF_ackPending (s : State) (n : FReg) (v : Ext) : (s.putF n v).ackPending = s.ackPending := rfl
@[simp] theorem State.putF_levelAck (s : State) (n : FReg) (v : Ext) : (s.putF n v).levelAck = s.levelAck := rfl
@[simp] theorem State.putF_raisePending (s : State) (n : FReg) (v : Ext) : (s.putF n v).raisePending = s.raisePending :=
  rfl
@[simp] theorem State.putF_levelRaise (s : State) (n : FReg) (v : Ext) : (s.putF n v).levelRaise = s.levelRaise := rfl
@[simp] theorem State.putF_claimed (s : State) (n : FReg) (v : Ext) : (s.putF n v).claimed = s.claimed := rfl
@[simp] theorem State.putF_dmaHeld (s : State) (n : FReg) (v : Ext) : (s.putF n v).dmaHeld = s.dmaHeld := rfl
@[simp] theorem State.putF_waiting (s : State) (n : FReg) (v : Ext) : (s.putF n v).waiting = s.waiting := rfl
@[simp] theorem State.putF_early (s : State) (n : FReg) (v : Ext) : (s.putF n v).early = s.early := rfl
@[simp] theorem State.putF_inputs (s : State) (n : FReg) (v : Ext) : (s.putF n v).inputs = s.inputs := rfl
@[simp] theorem State.putF_outputs (s : State) (n : FReg) (v : Ext) : (s.putF n v).outputs = s.outputs := rfl
@[simp] theorem State.putF_draws (s : State) (n : FReg) (v : Ext) : (s.putF n v).draws = s.draws := rfl

/-! ### writeSt -/

@[simp] theorem State.writeSt_r (s : State) (v : Word) : (s.writeSt v).r = s.r := rfl
@[simp] theorem State.writeSt_ar (s : State) (v : Word) : (s.writeSt v).ar = s.ar := rfl
@[simp] theorem State.writeSt_dp (s : State) (v : Word) : (s.writeSt v).dp = s.dp := rfl
@[simp] theorem State.writeSt_ir0 (s : State) (v : Word) : (s.writeSt v).ir0 = s.ir0 := rfl
@[simp] theorem State.writeSt_ir1 (s : State) (v : Word) : (s.writeSt v).ir1 = s.ir1 := rfl
@[simp] theorem State.writeSt_bk (s : State) (v : Word) : (s.writeSt v).bk = s.bk := rfl
@[simp] theorem State.writeSt_sp (s : State) (v : Word) : (s.writeSt v).sp = s.sp := rfl
@[simp] theorem State.writeSt_die (s : State) (v : Word) : (s.writeSt v).die = s.die := rfl
@[simp] theorem State.writeSt_iie (s : State) (v : Word) : (s.writeSt v).iie = s.iie := rfl
@[simp] theorem State.writeSt_iif (s : State) (v : Word) : (s.writeSt v).iif = s.iif := rfl
@[simp] theorem State.writeSt_rs (s : State) (v : Word) : (s.writeSt v).rs = s.rs := rfl
@[simp] theorem State.writeSt_re (s : State) (v : Word) : (s.writeSt v).re = s.re := rfl
@[simp] theorem State.writeSt_rc (s : State) (v : Word) : (s.writeSt v).rc = s.rc := rfl
@[simp] theorem State.writeSt_ivtp (s : State) (v : Word) : (s.writeSt v).ivtp = s.ivtp := rfl
@[simp] theorem State.writeSt_tvtp (s : State) (v : Word) : (s.writeSt v).tvtp = s.tvtp := rfl
@[simp] theorem State.writeSt_pc (s : State) (v : Word) : (s.writeSt v).pc = s.pc := rfl
@[simp] theorem State.writeSt_repeatSingle (s : State) (v : Word) : (s.writeSt v).repeatSingle = s.repeatSingle := rfl
@[simp] theorem State.writeSt_ir (s : State) (v : Word) : (s.writeSt v).ir = s.ir := rfl
@[simp] theorem State.writeSt_irHeld (s : State) (v : Word) : (s.writeSt v).irHeld = s.irHeld := rfl
@[simp] theorem State.writeSt_delay (s : State) (v : Word) : (s.writeSt v).delay = s.delay := rfl
@[simp] theorem State.writeSt_busy (s : State) (v : Word) : (s.writeSt v).busy = s.busy := rfl
@[simp] theorem State.writeSt_phase (s : State) (v : Word) : (s.writeSt v).phase = s.phase := rfl
@[simp] theorem State.writeSt_entering (s : State) (v : Word) : (s.writeSt v).entering = s.entering := rfl
@[simp] theorem State.writeSt_lockGlobal (s : State) (v : Word) : (s.writeSt v).lockGlobal = s.lockGlobal := rfl
@[simp] theorem State.writeSt_lockLocal (s : State) (v : Word) : (s.writeSt v).lockLocal = s.lockLocal := rfl
@[simp] theorem State.writeSt_iack (s : State) (v : Word) : (s.writeSt v).iack = s.iack := rfl
@[simp] theorem State.writeSt_globalBus (s : State) (v : Word) : (s.writeSt v).globalBus = s.globalBus := rfl
@[simp] theorem State.writeSt_localBus (s : State) (v : Word) : (s.writeSt v).localBus = s.localBus := rfl
@[simp] theorem State.writeSt_dev (s : State) (v : Word) : (s.writeSt v).dev = s.dev := rfl
@[simp] theorem State.writeSt_pins (s : State) (v : Word) : (s.writeSt v).pins = s.pins := rfl
@[simp] theorem State.writeSt_board (s : State) (v : Word) : (s.writeSt v).board = s.board := rfl
@[simp] theorem State.writeSt_romImage (s : State) (v : Word) : (s.writeSt v).romImage = s.romImage := rfl
@[simp] theorem State.writeSt_mem (s : State) (v : Word) : (s.writeSt v).mem = s.mem := rfl
@[simp] theorem State.writeSt_nmiLast (s : State) (v : Word) : (s.writeSt v).nmiLast = s.nmiLast := rfl
@[simp] theorem State.writeSt_iiofLast (s : State) (v : Word) : (s.writeSt v).iiofLast = s.iiofLast := rfl
@[simp] theorem State.writeSt_ackPending (s : State) (v : Word) : (s.writeSt v).ackPending = s.ackPending := rfl
@[simp] theorem State.writeSt_levelAck (s : State) (v : Word) : (s.writeSt v).levelAck = s.levelAck := rfl
@[simp] theorem State.writeSt_raisePending (s : State) (v : Word) : (s.writeSt v).raisePending = s.raisePending := rfl
@[simp] theorem State.writeSt_levelRaise (s : State) (v : Word) : (s.writeSt v).levelRaise = s.levelRaise := rfl
@[simp] theorem State.writeSt_claimed (s : State) (v : Word) : (s.writeSt v).claimed = s.claimed := rfl
@[simp] theorem State.writeSt_dmaHeld (s : State) (v : Word) : (s.writeSt v).dmaHeld = s.dmaHeld := rfl
@[simp] theorem State.writeSt_waiting (s : State) (v : Word) : (s.writeSt v).waiting = s.waiting := rfl
@[simp] theorem State.writeSt_early (s : State) (v : Word) : (s.writeSt v).early = s.early := rfl
@[simp] theorem State.writeSt_inputs (s : State) (v : Word) : (s.writeSt v).inputs = s.inputs := rfl
@[simp] theorem State.writeSt_outputs (s : State) (v : Word) : (s.writeSt v).outputs = s.outputs := rfl
@[simp] theorem State.writeSt_draws (s : State) (v : Word) : (s.writeSt v).draws = s.draws := rfl

/-! ### writeIif -/

@[simp] theorem State.writeIif_r (s : State) (v : Word) : (s.writeIif v).r = s.r := rfl
@[simp] theorem State.writeIif_ar (s : State) (v : Word) : (s.writeIif v).ar = s.ar := rfl
@[simp] theorem State.writeIif_dp (s : State) (v : Word) : (s.writeIif v).dp = s.dp := rfl
@[simp] theorem State.writeIif_ir0 (s : State) (v : Word) : (s.writeIif v).ir0 = s.ir0 := rfl
@[simp] theorem State.writeIif_ir1 (s : State) (v : Word) : (s.writeIif v).ir1 = s.ir1 := rfl
@[simp] theorem State.writeIif_bk (s : State) (v : Word) : (s.writeIif v).bk = s.bk := rfl
@[simp] theorem State.writeIif_sp (s : State) (v : Word) : (s.writeIif v).sp = s.sp := rfl
@[simp] theorem State.writeIif_st (s : State) (v : Word) : (s.writeIif v).st = s.st := rfl
@[simp] theorem State.writeIif_die (s : State) (v : Word) : (s.writeIif v).die = s.die := rfl
@[simp] theorem State.writeIif_iie (s : State) (v : Word) : (s.writeIif v).iie = s.iie := rfl
@[simp] theorem State.writeIif_rs (s : State) (v : Word) : (s.writeIif v).rs = s.rs := rfl
@[simp] theorem State.writeIif_re (s : State) (v : Word) : (s.writeIif v).re = s.re := rfl
@[simp] theorem State.writeIif_rc (s : State) (v : Word) : (s.writeIif v).rc = s.rc := rfl
@[simp] theorem State.writeIif_ivtp (s : State) (v : Word) : (s.writeIif v).ivtp = s.ivtp := rfl
@[simp] theorem State.writeIif_tvtp (s : State) (v : Word) : (s.writeIif v).tvtp = s.tvtp := rfl
@[simp] theorem State.writeIif_pc (s : State) (v : Word) : (s.writeIif v).pc = s.pc := rfl
@[simp] theorem State.writeIif_repeatSingle (s : State) (v : Word) : (s.writeIif v).repeatSingle = s.repeatSingle := rfl
@[simp] theorem State.writeIif_ir (s : State) (v : Word) : (s.writeIif v).ir = s.ir := rfl
@[simp] theorem State.writeIif_irHeld (s : State) (v : Word) : (s.writeIif v).irHeld = s.irHeld := rfl
@[simp] theorem State.writeIif_delay (s : State) (v : Word) : (s.writeIif v).delay = s.delay := rfl
@[simp] theorem State.writeIif_busy (s : State) (v : Word) : (s.writeIif v).busy = s.busy := rfl
@[simp] theorem State.writeIif_phase (s : State) (v : Word) : (s.writeIif v).phase = s.phase := rfl
@[simp] theorem State.writeIif_entering (s : State) (v : Word) : (s.writeIif v).entering = s.entering := rfl
@[simp] theorem State.writeIif_lockGlobal (s : State) (v : Word) : (s.writeIif v).lockGlobal = s.lockGlobal := rfl
@[simp] theorem State.writeIif_lockLocal (s : State) (v : Word) : (s.writeIif v).lockLocal = s.lockLocal := rfl
@[simp] theorem State.writeIif_iack (s : State) (v : Word) : (s.writeIif v).iack = s.iack := rfl
@[simp] theorem State.writeIif_globalBus (s : State) (v : Word) : (s.writeIif v).globalBus = s.globalBus := rfl
@[simp] theorem State.writeIif_localBus (s : State) (v : Word) : (s.writeIif v).localBus = s.localBus := rfl
@[simp] theorem State.writeIif_cache (s : State) (v : Word) : (s.writeIif v).cache = s.cache := rfl
@[simp] theorem State.writeIif_dev (s : State) (v : Word) : (s.writeIif v).dev = s.dev := rfl
@[simp] theorem State.writeIif_pins (s : State) (v : Word) : (s.writeIif v).pins = s.pins := rfl
@[simp] theorem State.writeIif_board (s : State) (v : Word) : (s.writeIif v).board = s.board := rfl
@[simp] theorem State.writeIif_romImage (s : State) (v : Word) : (s.writeIif v).romImage = s.romImage := rfl
@[simp] theorem State.writeIif_mem (s : State) (v : Word) : (s.writeIif v).mem = s.mem := rfl
@[simp] theorem State.writeIif_nmiLast (s : State) (v : Word) : (s.writeIif v).nmiLast = s.nmiLast := rfl
@[simp] theorem State.writeIif_iiofLast (s : State) (v : Word) : (s.writeIif v).iiofLast = s.iiofLast := rfl
@[simp] theorem State.writeIif_levelAck (s : State) (v : Word) : (s.writeIif v).levelAck = s.levelAck := rfl
@[simp] theorem State.writeIif_levelRaise (s : State) (v : Word) : (s.writeIif v).levelRaise = s.levelRaise := rfl
@[simp] theorem State.writeIif_dmaHeld (s : State) (v : Word) : (s.writeIif v).dmaHeld = s.dmaHeld := rfl
@[simp] theorem State.writeIif_waiting (s : State) (v : Word) : (s.writeIif v).waiting = s.waiting := rfl
@[simp] theorem State.writeIif_early (s : State) (v : Word) : (s.writeIif v).early = s.early := rfl
@[simp] theorem State.writeIif_inputs (s : State) (v : Word) : (s.writeIif v).inputs = s.inputs := rfl
@[simp] theorem State.writeIif_outputs (s : State) (v : Word) : (s.writeIif v).outputs = s.outputs := rfl
@[simp] theorem State.writeIif_draws (s : State) (v : Word) : (s.writeIif v).draws = s.draws := rfl

/-! ### put -/

@[simp] theorem State.put_ivtp (s : State) (d : Reg) (v : Word) : (s.put d v).ivtp = s.ivtp := by cases d <;> rfl
@[simp] theorem State.put_tvtp (s : State) (d : Reg) (v : Word) : (s.put d v).tvtp = s.tvtp := by cases d <;> rfl
@[simp] theorem State.put_pc (s : State) (d : Reg) (v : Word) : (s.put d v).pc = s.pc := by cases d <;> rfl
@[simp] theorem State.put_repeatSingle (s : State) (d : Reg) (v : Word) : (s.put d v).repeatSingle = s.repeatSingle :=
  by cases d <;> rfl
@[simp] theorem State.put_ir (s : State) (d : Reg) (v : Word) : (s.put d v).ir = s.ir := by cases d <;> rfl
@[simp] theorem State.put_irHeld (s : State) (d : Reg) (v : Word) : (s.put d v).irHeld = s.irHeld := by cases d <;> rfl
@[simp] theorem State.put_delay (s : State) (d : Reg) (v : Word) : (s.put d v).delay = s.delay := by cases d <;> rfl
@[simp] theorem State.put_busy (s : State) (d : Reg) (v : Word) : (s.put d v).busy = s.busy := by cases d <;> rfl
@[simp] theorem State.put_phase (s : State) (d : Reg) (v : Word) : (s.put d v).phase = s.phase := by cases d <;> rfl
@[simp] theorem State.put_entering (s : State) (d : Reg) (v : Word) : (s.put d v).entering = s.entering :=
  by cases d <;> rfl
@[simp] theorem State.put_lockGlobal (s : State) (d : Reg) (v : Word) : (s.put d v).lockGlobal = s.lockGlobal :=
  by cases d <;> rfl
@[simp] theorem State.put_lockLocal (s : State) (d : Reg) (v : Word) : (s.put d v).lockLocal = s.lockLocal :=
  by cases d <;> rfl
@[simp] theorem State.put_iack (s : State) (d : Reg) (v : Word) : (s.put d v).iack = s.iack := by cases d <;> rfl
@[simp] theorem State.put_globalBus (s : State) (d : Reg) (v : Word) : (s.put d v).globalBus = s.globalBus :=
  by cases d <;> rfl
@[simp] theorem State.put_localBus (s : State) (d : Reg) (v : Word) : (s.put d v).localBus = s.localBus :=
  by cases d <;> rfl
@[simp] theorem State.put_dev (s : State) (d : Reg) (v : Word) : (s.put d v).dev = s.dev := by cases d <;> rfl
@[simp] theorem State.put_pins (s : State) (d : Reg) (v : Word) : (s.put d v).pins = s.pins := by cases d <;> rfl
@[simp] theorem State.put_board (s : State) (d : Reg) (v : Word) : (s.put d v).board = s.board := by cases d <;> rfl
@[simp] theorem State.put_romImage (s : State) (d : Reg) (v : Word) : (s.put d v).romImage = s.romImage := by cases d <;> rfl
@[simp] theorem State.put_mem (s : State) (d : Reg) (v : Word) : (s.put d v).mem = s.mem := by cases d <;> rfl
@[simp] theorem State.put_nmiLast (s : State) (d : Reg) (v : Word) : (s.put d v).nmiLast = s.nmiLast :=
  by cases d <;> rfl
@[simp] theorem State.put_iiofLast (s : State) (d : Reg) (v : Word) : (s.put d v).iiofLast = s.iiofLast :=
  by cases d <;> rfl
@[simp] theorem State.put_levelAck (s : State) (d : Reg) (v : Word) : (s.put d v).levelAck = s.levelAck :=
  by cases d <;> rfl
@[simp] theorem State.put_levelRaise (s : State) (d : Reg) (v : Word) : (s.put d v).levelRaise = s.levelRaise :=
  by cases d <;> rfl
@[simp] theorem State.put_dmaHeld (s : State) (d : Reg) (v : Word) : (s.put d v).dmaHeld = s.dmaHeld :=
  by cases d <;> rfl
@[simp] theorem State.put_waiting (s : State) (d : Reg) (v : Word) : (s.put d v).waiting = s.waiting :=
  by cases d <;> rfl
@[simp] theorem State.put_early (s : State) (d : Reg) (v : Word) : (s.put d v).early = s.early :=
  by cases d <;> rfl
@[simp] theorem State.put_inputs (s : State) (d : Reg) (v : Word) : (s.put d v).inputs = s.inputs := by cases d <;> rfl
@[simp] theorem State.put_outputs (s : State) (d : Reg) (v : Word) : (s.put d v).outputs = s.outputs :=
  by cases d <;> rfl
@[simp] theorem State.put_draws (s : State) (d : Reg) (v : Word) : (s.put d v).draws = s.draws := by cases d <;> rfl

/-! ### putX -/

@[simp] theorem State.putX_r (s : State) (d : XReg) (v : Word) : (s.putX d v).r = s.r := by cases d <;> rfl
@[simp] theorem State.putX_ar (s : State) (d : XReg) (v : Word) : (s.putX d v).ar = s.ar := by cases d <;> rfl
@[simp] theorem State.putX_dp (s : State) (d : XReg) (v : Word) : (s.putX d v).dp = s.dp := by cases d <;> rfl
@[simp] theorem State.putX_ir0 (s : State) (d : XReg) (v : Word) : (s.putX d v).ir0 = s.ir0 := by cases d <;> rfl
@[simp] theorem State.putX_ir1 (s : State) (d : XReg) (v : Word) : (s.putX d v).ir1 = s.ir1 := by cases d <;> rfl
@[simp] theorem State.putX_bk (s : State) (d : XReg) (v : Word) : (s.putX d v).bk = s.bk := by cases d <;> rfl
@[simp] theorem State.putX_sp (s : State) (d : XReg) (v : Word) : (s.putX d v).sp = s.sp := by cases d <;> rfl
@[simp] theorem State.putX_st (s : State) (d : XReg) (v : Word) : (s.putX d v).st = s.st := by cases d <;> rfl
@[simp] theorem State.putX_die (s : State) (d : XReg) (v : Word) : (s.putX d v).die = s.die := by cases d <;> rfl
@[simp] theorem State.putX_iie (s : State) (d : XReg) (v : Word) : (s.putX d v).iie = s.iie := by cases d <;> rfl
@[simp] theorem State.putX_iif (s : State) (d : XReg) (v : Word) : (s.putX d v).iif = s.iif := by cases d <;> rfl
@[simp] theorem State.putX_rs (s : State) (d : XReg) (v : Word) : (s.putX d v).rs = s.rs := by cases d <;> rfl
@[simp] theorem State.putX_re (s : State) (d : XReg) (v : Word) : (s.putX d v).re = s.re := by cases d <;> rfl
@[simp] theorem State.putX_rc (s : State) (d : XReg) (v : Word) : (s.putX d v).rc = s.rc := by cases d <;> rfl
@[simp] theorem State.putX_pc (s : State) (d : XReg) (v : Word) : (s.putX d v).pc = s.pc := by cases d <;> rfl
@[simp] theorem State.putX_repeatSingle (s : State) (d : XReg) (v : Word) : (s.putX d v).repeatSingle = s.repeatSingle :=
  by cases d <;> rfl
@[simp] theorem State.putX_ir (s : State) (d : XReg) (v : Word) : (s.putX d v).ir = s.ir := by cases d <;> rfl
@[simp] theorem State.putX_irHeld (s : State) (d : XReg) (v : Word) : (s.putX d v).irHeld = s.irHeld :=
  by cases d <;> rfl
@[simp] theorem State.putX_delay (s : State) (d : XReg) (v : Word) : (s.putX d v).delay = s.delay := by cases d <;> rfl
@[simp] theorem State.putX_busy (s : State) (d : XReg) (v : Word) : (s.putX d v).busy = s.busy := by cases d <;> rfl
@[simp] theorem State.putX_phase (s : State) (d : XReg) (v : Word) : (s.putX d v).phase = s.phase := by cases d <;> rfl
@[simp] theorem State.putX_entering (s : State) (d : XReg) (v : Word) : (s.putX d v).entering = s.entering :=
  by cases d <;> rfl
@[simp] theorem State.putX_lockGlobal (s : State) (d : XReg) (v : Word) : (s.putX d v).lockGlobal = s.lockGlobal :=
  by cases d <;> rfl
@[simp] theorem State.putX_lockLocal (s : State) (d : XReg) (v : Word) : (s.putX d v).lockLocal = s.lockLocal :=
  by cases d <;> rfl
@[simp] theorem State.putX_iack (s : State) (d : XReg) (v : Word) : (s.putX d v).iack = s.iack := by cases d <;> rfl
@[simp] theorem State.putX_globalBus (s : State) (d : XReg) (v : Word) : (s.putX d v).globalBus = s.globalBus :=
  by cases d <;> rfl
@[simp] theorem State.putX_localBus (s : State) (d : XReg) (v : Word) : (s.putX d v).localBus = s.localBus :=
  by cases d <;> rfl
@[simp] theorem State.putX_cache (s : State) (d : XReg) (v : Word) : (s.putX d v).cache = s.cache := by cases d <;> rfl
@[simp] theorem State.putX_dev (s : State) (d : XReg) (v : Word) : (s.putX d v).dev = s.dev := by cases d <;> rfl
@[simp] theorem State.putX_pins (s : State) (d : XReg) (v : Word) : (s.putX d v).pins = s.pins := by cases d <;> rfl
@[simp] theorem State.putX_board (s : State) (d : XReg) (v : Word) : (s.putX d v).board = s.board := by cases d <;> rfl
@[simp] theorem State.putX_romImage (s : State) (d : XReg) (v : Word) : (s.putX d v).romImage = s.romImage := by cases d <;> rfl
@[simp] theorem State.putX_mem (s : State) (d : XReg) (v : Word) : (s.putX d v).mem = s.mem := by cases d <;> rfl
@[simp] theorem State.putX_nmiLast (s : State) (d : XReg) (v : Word) : (s.putX d v).nmiLast = s.nmiLast :=
  by cases d <;> rfl
@[simp] theorem State.putX_iiofLast (s : State) (d : XReg) (v : Word) : (s.putX d v).iiofLast = s.iiofLast :=
  by cases d <;> rfl
@[simp] theorem State.putX_ackPending (s : State) (d : XReg) (v : Word) : (s.putX d v).ackPending = s.ackPending :=
  by cases d <;> rfl
@[simp] theorem State.putX_levelAck (s : State) (d : XReg) (v : Word) : (s.putX d v).levelAck = s.levelAck :=
  by cases d <;> rfl
@[simp] theorem State.putX_raisePending (s : State) (d : XReg) (v : Word) : (s.putX d v).raisePending = s.raisePending :=
  by cases d <;> rfl
@[simp] theorem State.putX_levelRaise (s : State) (d : XReg) (v : Word) : (s.putX d v).levelRaise = s.levelRaise :=
  by cases d <;> rfl
@[simp] theorem State.putX_claimed (s : State) (d : XReg) (v : Word) : (s.putX d v).claimed = s.claimed :=
  by cases d <;> rfl
@[simp] theorem State.putX_dmaHeld (s : State) (d : XReg) (v : Word) : (s.putX d v).dmaHeld = s.dmaHeld :=
  by cases d <;> rfl
@[simp] theorem State.putX_waiting (s : State) (d : XReg) (v : Word) : (s.putX d v).waiting = s.waiting :=
  by cases d <;> rfl
@[simp] theorem State.putX_early (s : State) (d : XReg) (v : Word) : (s.putX d v).early = s.early :=
  by cases d <;> rfl
@[simp] theorem State.putX_inputs (s : State) (d : XReg) (v : Word) : (s.putX d v).inputs = s.inputs :=
  by cases d <;> rfl
@[simp] theorem State.putX_outputs (s : State) (d : XReg) (v : Word) : (s.putX d v).outputs = s.outputs :=
  by cases d <;> rfl
@[simp] theorem State.putX_draws (s : State) (d : XReg) (v : Word) : (s.putX d v).draws = s.draws := by cases d <;> rfl

/-! ### setFlags -/

@[simp] theorem State.setFlags_r (s : State) (f : Flags) : (s.setFlags f).r = s.r := rfl
@[simp] theorem State.setFlags_ar (s : State) (f : Flags) : (s.setFlags f).ar = s.ar := rfl
@[simp] theorem State.setFlags_dp (s : State) (f : Flags) : (s.setFlags f).dp = s.dp := rfl
@[simp] theorem State.setFlags_ir0 (s : State) (f : Flags) : (s.setFlags f).ir0 = s.ir0 := rfl
@[simp] theorem State.setFlags_ir1 (s : State) (f : Flags) : (s.setFlags f).ir1 = s.ir1 := rfl
@[simp] theorem State.setFlags_bk (s : State) (f : Flags) : (s.setFlags f).bk = s.bk := rfl
@[simp] theorem State.setFlags_sp (s : State) (f : Flags) : (s.setFlags f).sp = s.sp := rfl
@[simp] theorem State.setFlags_die (s : State) (f : Flags) : (s.setFlags f).die = s.die := rfl
@[simp] theorem State.setFlags_iie (s : State) (f : Flags) : (s.setFlags f).iie = s.iie := rfl
@[simp] theorem State.setFlags_iif (s : State) (f : Flags) : (s.setFlags f).iif = s.iif := rfl
@[simp] theorem State.setFlags_rs (s : State) (f : Flags) : (s.setFlags f).rs = s.rs := rfl
@[simp] theorem State.setFlags_re (s : State) (f : Flags) : (s.setFlags f).re = s.re := rfl
@[simp] theorem State.setFlags_rc (s : State) (f : Flags) : (s.setFlags f).rc = s.rc := rfl
@[simp] theorem State.setFlags_ivtp (s : State) (f : Flags) : (s.setFlags f).ivtp = s.ivtp := rfl
@[simp] theorem State.setFlags_tvtp (s : State) (f : Flags) : (s.setFlags f).tvtp = s.tvtp := rfl
@[simp] theorem State.setFlags_pc (s : State) (f : Flags) : (s.setFlags f).pc = s.pc := rfl
@[simp] theorem State.setFlags_repeatSingle (s : State) (f : Flags) : (s.setFlags f).repeatSingle = s.repeatSingle :=
  rfl
@[simp] theorem State.setFlags_ir (s : State) (f : Flags) : (s.setFlags f).ir = s.ir := rfl
@[simp] theorem State.setFlags_irHeld (s : State) (f : Flags) : (s.setFlags f).irHeld = s.irHeld := rfl
@[simp] theorem State.setFlags_delay (s : State) (f : Flags) : (s.setFlags f).delay = s.delay := rfl
@[simp] theorem State.setFlags_busy (s : State) (f : Flags) : (s.setFlags f).busy = s.busy := rfl
@[simp] theorem State.setFlags_phase (s : State) (f : Flags) : (s.setFlags f).phase = s.phase := rfl
@[simp] theorem State.setFlags_entering (s : State) (f : Flags) : (s.setFlags f).entering = s.entering := rfl
@[simp] theorem State.setFlags_lockGlobal (s : State) (f : Flags) : (s.setFlags f).lockGlobal = s.lockGlobal := rfl
@[simp] theorem State.setFlags_lockLocal (s : State) (f : Flags) : (s.setFlags f).lockLocal = s.lockLocal := rfl
@[simp] theorem State.setFlags_iack (s : State) (f : Flags) : (s.setFlags f).iack = s.iack := rfl
@[simp] theorem State.setFlags_globalBus (s : State) (f : Flags) : (s.setFlags f).globalBus = s.globalBus := rfl
@[simp] theorem State.setFlags_localBus (s : State) (f : Flags) : (s.setFlags f).localBus = s.localBus := rfl
@[simp] theorem State.setFlags_cache (s : State) (f : Flags) : (s.setFlags f).cache = s.cache := rfl
@[simp] theorem State.setFlags_dev (s : State) (f : Flags) : (s.setFlags f).dev = s.dev := rfl
@[simp] theorem State.setFlags_pins (s : State) (f : Flags) : (s.setFlags f).pins = s.pins := rfl
@[simp] theorem State.setFlags_board (s : State) (f : Flags) : (s.setFlags f).board = s.board := rfl
@[simp] theorem State.setFlags_romImage (s : State) (f : Flags) : (s.setFlags f).romImage = s.romImage := rfl
@[simp] theorem State.setFlags_mem (s : State) (f : Flags) : (s.setFlags f).mem = s.mem := rfl
@[simp] theorem State.setFlags_nmiLast (s : State) (f : Flags) : (s.setFlags f).nmiLast = s.nmiLast := rfl
@[simp] theorem State.setFlags_iiofLast (s : State) (f : Flags) : (s.setFlags f).iiofLast = s.iiofLast := rfl
@[simp] theorem State.setFlags_ackPending (s : State) (f : Flags) : (s.setFlags f).ackPending = s.ackPending := rfl
@[simp] theorem State.setFlags_levelAck (s : State) (f : Flags) : (s.setFlags f).levelAck = s.levelAck := rfl
@[simp] theorem State.setFlags_raisePending (s : State) (f : Flags) : (s.setFlags f).raisePending = s.raisePending :=
  rfl
@[simp] theorem State.setFlags_levelRaise (s : State) (f : Flags) : (s.setFlags f).levelRaise = s.levelRaise := rfl
@[simp] theorem State.setFlags_claimed (s : State) (f : Flags) : (s.setFlags f).claimed = s.claimed := rfl
@[simp] theorem State.setFlags_dmaHeld (s : State) (f : Flags) : (s.setFlags f).dmaHeld = s.dmaHeld := rfl
@[simp] theorem State.setFlags_waiting (s : State) (f : Flags) : (s.setFlags f).waiting = s.waiting := rfl
@[simp] theorem State.setFlags_early (s : State) (f : Flags) : (s.setFlags f).early = s.early := rfl
@[simp] theorem State.setFlags_inputs (s : State) (f : Flags) : (s.setFlags f).inputs = s.inputs := rfl
@[simp] theorem State.setFlags_outputs (s : State) (f : Flags) : (s.setFlags f).outputs = s.outputs := rfl
@[simp] theorem State.setFlags_draws (s : State) (f : Flags) : (s.setFlags f).draws = s.draws := rfl

/-! ### writeBack -/

@[simp] theorem State.writeBack_r (s : State) (n : Fin 8) (v : Option Word) : (s.writeBack n v).r = s.r :=
  by cases v <;> rfl
@[simp] theorem State.writeBack_dp (s : State) (n : Fin 8) (v : Option Word) : (s.writeBack n v).dp = s.dp :=
  by cases v <;> rfl
@[simp] theorem State.writeBack_ir0 (s : State) (n : Fin 8) (v : Option Word) : (s.writeBack n v).ir0 = s.ir0 :=
  by cases v <;> rfl
@[simp] theorem State.writeBack_ir1 (s : State) (n : Fin 8) (v : Option Word) : (s.writeBack n v).ir1 = s.ir1 :=
  by cases v <;> rfl
@[simp] theorem State.writeBack_bk (s : State) (n : Fin 8) (v : Option Word) : (s.writeBack n v).bk = s.bk :=
  by cases v <;> rfl
@[simp] theorem State.writeBack_sp (s : State) (n : Fin 8) (v : Option Word) : (s.writeBack n v).sp = s.sp :=
  by cases v <;> rfl
@[simp] theorem State.writeBack_st (s : State) (n : Fin 8) (v : Option Word) : (s.writeBack n v).st = s.st :=
  by cases v <;> rfl
@[simp] theorem State.writeBack_die (s : State) (n : Fin 8) (v : Option Word) : (s.writeBack n v).die = s.die :=
  by cases v <;> rfl
@[simp] theorem State.writeBack_iie (s : State) (n : Fin 8) (v : Option Word) : (s.writeBack n v).iie = s.iie :=
  by cases v <;> rfl
@[simp] theorem State.writeBack_iif (s : State) (n : Fin 8) (v : Option Word) : (s.writeBack n v).iif = s.iif :=
  by cases v <;> rfl
@[simp] theorem State.writeBack_rs (s : State) (n : Fin 8) (v : Option Word) : (s.writeBack n v).rs = s.rs :=
  by cases v <;> rfl
@[simp] theorem State.writeBack_re (s : State) (n : Fin 8) (v : Option Word) : (s.writeBack n v).re = s.re :=
  by cases v <;> rfl
@[simp] theorem State.writeBack_rc (s : State) (n : Fin 8) (v : Option Word) : (s.writeBack n v).rc = s.rc :=
  by cases v <;> rfl
@[simp] theorem State.writeBack_ivtp (s : State) (n : Fin 8) (v : Option Word) : (s.writeBack n v).ivtp = s.ivtp :=
  by cases v <;> rfl
@[simp] theorem State.writeBack_tvtp (s : State) (n : Fin 8) (v : Option Word) : (s.writeBack n v).tvtp = s.tvtp :=
  by cases v <;> rfl
@[simp] theorem State.writeBack_pc (s : State) (n : Fin 8) (v : Option Word) : (s.writeBack n v).pc = s.pc :=
  by cases v <;> rfl
@[simp] theorem State.writeBack_repeatSingle (s : State) (n : Fin 8) (v : Option Word) : (s.writeBack n v).repeatSingle = s.repeatSingle :=
  by cases v <;> rfl
@[simp] theorem State.writeBack_ir (s : State) (n : Fin 8) (v : Option Word) : (s.writeBack n v).ir = s.ir :=
  by cases v <;> rfl
@[simp] theorem State.writeBack_irHeld (s : State) (n : Fin 8) (v : Option Word) : (s.writeBack n v).irHeld = s.irHeld :=
  by cases v <;> rfl
@[simp] theorem State.writeBack_delay (s : State) (n : Fin 8) (v : Option Word) : (s.writeBack n v).delay = s.delay :=
  by cases v <;> rfl
@[simp] theorem State.writeBack_busy (s : State) (n : Fin 8) (v : Option Word) : (s.writeBack n v).busy = s.busy :=
  by cases v <;> rfl
@[simp] theorem State.writeBack_phase (s : State) (n : Fin 8) (v : Option Word) : (s.writeBack n v).phase = s.phase :=
  by cases v <;> rfl
@[simp] theorem State.writeBack_entering (s : State) (n : Fin 8) (v : Option Word) : (s.writeBack n v).entering = s.entering :=
  by cases v <;> rfl
@[simp] theorem State.writeBack_lockGlobal (s : State) (n : Fin 8) (v : Option Word) : (s.writeBack n v).lockGlobal = s.lockGlobal :=
  by cases v <;> rfl
@[simp] theorem State.writeBack_lockLocal (s : State) (n : Fin 8) (v : Option Word) : (s.writeBack n v).lockLocal = s.lockLocal :=
  by cases v <;> rfl
@[simp] theorem State.writeBack_iack (s : State) (n : Fin 8) (v : Option Word) : (s.writeBack n v).iack = s.iack :=
  by cases v <;> rfl
@[simp] theorem State.writeBack_globalBus (s : State) (n : Fin 8) (v : Option Word) : (s.writeBack n v).globalBus = s.globalBus :=
  by cases v <;> rfl
@[simp] theorem State.writeBack_localBus (s : State) (n : Fin 8) (v : Option Word) : (s.writeBack n v).localBus = s.localBus :=
  by cases v <;> rfl
@[simp] theorem State.writeBack_cache (s : State) (n : Fin 8) (v : Option Word) : (s.writeBack n v).cache = s.cache :=
  by cases v <;> rfl
@[simp] theorem State.writeBack_dev (s : State) (n : Fin 8) (v : Option Word) : (s.writeBack n v).dev = s.dev :=
  by cases v <;> rfl
@[simp] theorem State.writeBack_pins (s : State) (n : Fin 8) (v : Option Word) : (s.writeBack n v).pins = s.pins :=
  by cases v <;> rfl
@[simp] theorem State.writeBack_board (s : State) (n : Fin 8) (v : Option Word) : (s.writeBack n v).board = s.board :=
  by cases v <;> rfl
@[simp] theorem State.writeBack_romImage (s : State) (n : Fin 8) (v : Option Word) : (s.writeBack n v).romImage = s.romImage :=
  by cases v <;> rfl
@[simp] theorem State.writeBack_mem (s : State) (n : Fin 8) (v : Option Word) : (s.writeBack n v).mem = s.mem :=
  by cases v <;> rfl
@[simp] theorem State.writeBack_nmiLast (s : State) (n : Fin 8) (v : Option Word) : (s.writeBack n v).nmiLast = s.nmiLast :=
  by cases v <;> rfl
@[simp] theorem State.writeBack_iiofLast (s : State) (n : Fin 8) (v : Option Word) : (s.writeBack n v).iiofLast = s.iiofLast :=
  by cases v <;> rfl
@[simp] theorem State.writeBack_ackPending (s : State) (n : Fin 8) (v : Option Word) : (s.writeBack n v).ackPending = s.ackPending :=
  by cases v <;> rfl
@[simp] theorem State.writeBack_levelAck (s : State) (n : Fin 8) (v : Option Word) : (s.writeBack n v).levelAck = s.levelAck :=
  by cases v <;> rfl
@[simp] theorem State.writeBack_raisePending (s : State) (n : Fin 8) (v : Option Word) : (s.writeBack n v).raisePending = s.raisePending :=
  by cases v <;> rfl
@[simp] theorem State.writeBack_levelRaise (s : State) (n : Fin 8) (v : Option Word) : (s.writeBack n v).levelRaise = s.levelRaise :=
  by cases v <;> rfl
@[simp] theorem State.writeBack_claimed (s : State) (n : Fin 8) (v : Option Word) : (s.writeBack n v).claimed = s.claimed :=
  by cases v <;> rfl
@[simp] theorem State.writeBack_dmaHeld (s : State) (n : Fin 8) (v : Option Word) : (s.writeBack n v).dmaHeld = s.dmaHeld :=
  by cases v <;> rfl
@[simp] theorem State.writeBack_waiting (s : State) (n : Fin 8) (v : Option Word) : (s.writeBack n v).waiting = s.waiting :=
  by cases v <;> rfl
@[simp] theorem State.writeBack_early (s : State) (n : Fin 8) (v : Option Word) : (s.writeBack n v).early = s.early :=
  by cases v <;> rfl
@[simp] theorem State.writeBack_inputs (s : State) (n : Fin 8) (v : Option Word) : (s.writeBack n v).inputs = s.inputs :=
  by cases v <;> rfl
@[simp] theorem State.writeBack_outputs (s : State) (n : Fin 8) (v : Option Word) : (s.writeBack n v).outputs = s.outputs :=
  by cases v <;> rfl
@[simp] theorem State.writeBack_draws (s : State) (n : Fin 8) (v : Option Word) : (s.writeBack n v).draws = s.draws :=
  by cases v <;> rfl

/-! ### indUpdate -/

@[simp] theorem State.indUpdate_r (s : State) (i : Ind) (d : Word) : (s.indUpdate i d).r = s.r :=
  by simp [State.indUpdate]
@[simp] theorem State.indUpdate_dp (s : State) (i : Ind) (d : Word) : (s.indUpdate i d).dp = s.dp :=
  by simp [State.indUpdate]
@[simp] theorem State.indUpdate_ir0 (s : State) (i : Ind) (d : Word) : (s.indUpdate i d).ir0 = s.ir0 :=
  by simp [State.indUpdate]
@[simp] theorem State.indUpdate_ir1 (s : State) (i : Ind) (d : Word) : (s.indUpdate i d).ir1 = s.ir1 :=
  by simp [State.indUpdate]
@[simp] theorem State.indUpdate_bk (s : State) (i : Ind) (d : Word) : (s.indUpdate i d).bk = s.bk :=
  by simp [State.indUpdate]
@[simp] theorem State.indUpdate_sp (s : State) (i : Ind) (d : Word) : (s.indUpdate i d).sp = s.sp :=
  by simp [State.indUpdate]
@[simp] theorem State.indUpdate_st (s : State) (i : Ind) (d : Word) : (s.indUpdate i d).st = s.st :=
  by simp [State.indUpdate]
@[simp] theorem State.indUpdate_die (s : State) (i : Ind) (d : Word) : (s.indUpdate i d).die = s.die :=
  by simp [State.indUpdate]
@[simp] theorem State.indUpdate_iie (s : State) (i : Ind) (d : Word) : (s.indUpdate i d).iie = s.iie :=
  by simp [State.indUpdate]
@[simp] theorem State.indUpdate_iif (s : State) (i : Ind) (d : Word) : (s.indUpdate i d).iif = s.iif :=
  by simp [State.indUpdate]
@[simp] theorem State.indUpdate_rs (s : State) (i : Ind) (d : Word) : (s.indUpdate i d).rs = s.rs :=
  by simp [State.indUpdate]
@[simp] theorem State.indUpdate_re (s : State) (i : Ind) (d : Word) : (s.indUpdate i d).re = s.re :=
  by simp [State.indUpdate]
@[simp] theorem State.indUpdate_rc (s : State) (i : Ind) (d : Word) : (s.indUpdate i d).rc = s.rc :=
  by simp [State.indUpdate]
@[simp] theorem State.indUpdate_ivtp (s : State) (i : Ind) (d : Word) : (s.indUpdate i d).ivtp = s.ivtp :=
  by simp [State.indUpdate]
@[simp] theorem State.indUpdate_tvtp (s : State) (i : Ind) (d : Word) : (s.indUpdate i d).tvtp = s.tvtp :=
  by simp [State.indUpdate]
@[simp] theorem State.indUpdate_pc (s : State) (i : Ind) (d : Word) : (s.indUpdate i d).pc = s.pc :=
  by simp [State.indUpdate]
@[simp] theorem State.indUpdate_repeatSingle (s : State) (i : Ind) (d : Word) : (s.indUpdate i d).repeatSingle = s.repeatSingle :=
  by simp [State.indUpdate]
@[simp] theorem State.indUpdate_ir (s : State) (i : Ind) (d : Word) : (s.indUpdate i d).ir = s.ir :=
  by simp [State.indUpdate]
@[simp] theorem State.indUpdate_irHeld (s : State) (i : Ind) (d : Word) : (s.indUpdate i d).irHeld = s.irHeld :=
  by simp [State.indUpdate]
@[simp] theorem State.indUpdate_delay (s : State) (i : Ind) (d : Word) : (s.indUpdate i d).delay = s.delay :=
  by simp [State.indUpdate]
@[simp] theorem State.indUpdate_busy (s : State) (i : Ind) (d : Word) : (s.indUpdate i d).busy = s.busy :=
  by simp [State.indUpdate]
@[simp] theorem State.indUpdate_phase (s : State) (i : Ind) (d : Word) : (s.indUpdate i d).phase = s.phase :=
  by simp [State.indUpdate]
@[simp] theorem State.indUpdate_entering (s : State) (i : Ind) (d : Word) : (s.indUpdate i d).entering = s.entering :=
  by simp [State.indUpdate]
@[simp] theorem State.indUpdate_lockGlobal (s : State) (i : Ind) (d : Word) : (s.indUpdate i d).lockGlobal = s.lockGlobal :=
  by simp [State.indUpdate]
@[simp] theorem State.indUpdate_lockLocal (s : State) (i : Ind) (d : Word) : (s.indUpdate i d).lockLocal = s.lockLocal :=
  by simp [State.indUpdate]
@[simp] theorem State.indUpdate_iack (s : State) (i : Ind) (d : Word) : (s.indUpdate i d).iack = s.iack :=
  by simp [State.indUpdate]
@[simp] theorem State.indUpdate_globalBus (s : State) (i : Ind) (d : Word) : (s.indUpdate i d).globalBus = s.globalBus :=
  by simp [State.indUpdate]
@[simp] theorem State.indUpdate_localBus (s : State) (i : Ind) (d : Word) : (s.indUpdate i d).localBus = s.localBus :=
  by simp [State.indUpdate]
@[simp] theorem State.indUpdate_cache (s : State) (i : Ind) (d : Word) : (s.indUpdate i d).cache = s.cache :=
  by simp [State.indUpdate]
@[simp] theorem State.indUpdate_dev (s : State) (i : Ind) (d : Word) : (s.indUpdate i d).dev = s.dev :=
  by simp [State.indUpdate]
@[simp] theorem State.indUpdate_pins (s : State) (i : Ind) (d : Word) : (s.indUpdate i d).pins = s.pins :=
  by simp [State.indUpdate]
@[simp] theorem State.indUpdate_board (s : State) (i : Ind) (d : Word) : (s.indUpdate i d).board = s.board :=
  by simp [State.indUpdate]
@[simp] theorem State.indUpdate_romImage (s : State) (i : Ind) (d : Word) : (s.indUpdate i d).romImage = s.romImage :=
  by simp [State.indUpdate]
@[simp] theorem State.indUpdate_mem (s : State) (i : Ind) (d : Word) : (s.indUpdate i d).mem = s.mem :=
  by simp [State.indUpdate]
@[simp] theorem State.indUpdate_nmiLast (s : State) (i : Ind) (d : Word) : (s.indUpdate i d).nmiLast = s.nmiLast :=
  by simp [State.indUpdate]
@[simp] theorem State.indUpdate_iiofLast (s : State) (i : Ind) (d : Word) : (s.indUpdate i d).iiofLast = s.iiofLast :=
  by simp [State.indUpdate]
@[simp] theorem State.indUpdate_ackPending (s : State) (i : Ind) (d : Word) : (s.indUpdate i d).ackPending = s.ackPending :=
  by simp [State.indUpdate]
@[simp] theorem State.indUpdate_levelAck (s : State) (i : Ind) (d : Word) : (s.indUpdate i d).levelAck = s.levelAck :=
  by simp [State.indUpdate]
@[simp] theorem State.indUpdate_raisePending (s : State) (i : Ind) (d : Word) : (s.indUpdate i d).raisePending = s.raisePending :=
  by simp [State.indUpdate]
@[simp] theorem State.indUpdate_levelRaise (s : State) (i : Ind) (d : Word) : (s.indUpdate i d).levelRaise = s.levelRaise :=
  by simp [State.indUpdate]
@[simp] theorem State.indUpdate_claimed (s : State) (i : Ind) (d : Word) : (s.indUpdate i d).claimed = s.claimed :=
  by simp [State.indUpdate]
@[simp] theorem State.indUpdate_dmaHeld (s : State) (i : Ind) (d : Word) : (s.indUpdate i d).dmaHeld = s.dmaHeld :=
  by simp [State.indUpdate]
@[simp] theorem State.indUpdate_waiting (s : State) (i : Ind) (d : Word) : (s.indUpdate i d).waiting = s.waiting :=
  by simp [State.indUpdate]
@[simp] theorem State.indUpdate_early (s : State) (i : Ind) (d : Word) : (s.indUpdate i d).early = s.early :=
  by simp [State.indUpdate]
@[simp] theorem State.indUpdate_inputs (s : State) (i : Ind) (d : Word) : (s.indUpdate i d).inputs = s.inputs :=
  by simp [State.indUpdate]
@[simp] theorem State.indUpdate_outputs (s : State) (i : Ind) (d : Word) : (s.indUpdate i d).outputs = s.outputs :=
  by simp [State.indUpdate]
@[simp] theorem State.indUpdate_draws (s : State) (i : Ind) (d : Word) : (s.indUpdate i d).draws = s.draws :=
  by simp [State.indUpdate]

/-! ### indUpdate2 -/

@[simp] theorem State.indUpdate2_r (s : State) (i j : Ind) : (s.indUpdate2 i j).r = s.r := by simp [State.indUpdate2]
@[simp] theorem State.indUpdate2_dp (s : State) (i j : Ind) : (s.indUpdate2 i j).dp = s.dp := by simp [State.indUpdate2]
@[simp] theorem State.indUpdate2_ir0 (s : State) (i j : Ind) : (s.indUpdate2 i j).ir0 = s.ir0 :=
  by simp [State.indUpdate2]
@[simp] theorem State.indUpdate2_ir1 (s : State) (i j : Ind) : (s.indUpdate2 i j).ir1 = s.ir1 :=
  by simp [State.indUpdate2]
@[simp] theorem State.indUpdate2_bk (s : State) (i j : Ind) : (s.indUpdate2 i j).bk = s.bk := by simp [State.indUpdate2]
@[simp] theorem State.indUpdate2_sp (s : State) (i j : Ind) : (s.indUpdate2 i j).sp = s.sp := by simp [State.indUpdate2]
@[simp] theorem State.indUpdate2_st (s : State) (i j : Ind) : (s.indUpdate2 i j).st = s.st := by simp [State.indUpdate2]
@[simp] theorem State.indUpdate2_die (s : State) (i j : Ind) : (s.indUpdate2 i j).die = s.die :=
  by simp [State.indUpdate2]
@[simp] theorem State.indUpdate2_iie (s : State) (i j : Ind) : (s.indUpdate2 i j).iie = s.iie :=
  by simp [State.indUpdate2]
@[simp] theorem State.indUpdate2_iif (s : State) (i j : Ind) : (s.indUpdate2 i j).iif = s.iif :=
  by simp [State.indUpdate2]
@[simp] theorem State.indUpdate2_rs (s : State) (i j : Ind) : (s.indUpdate2 i j).rs = s.rs := by simp [State.indUpdate2]
@[simp] theorem State.indUpdate2_re (s : State) (i j : Ind) : (s.indUpdate2 i j).re = s.re := by simp [State.indUpdate2]
@[simp] theorem State.indUpdate2_rc (s : State) (i j : Ind) : (s.indUpdate2 i j).rc = s.rc := by simp [State.indUpdate2]
@[simp] theorem State.indUpdate2_ivtp (s : State) (i j : Ind) : (s.indUpdate2 i j).ivtp = s.ivtp :=
  by simp [State.indUpdate2]
@[simp] theorem State.indUpdate2_tvtp (s : State) (i j : Ind) : (s.indUpdate2 i j).tvtp = s.tvtp :=
  by simp [State.indUpdate2]
@[simp] theorem State.indUpdate2_pc (s : State) (i j : Ind) : (s.indUpdate2 i j).pc = s.pc := by simp [State.indUpdate2]
@[simp] theorem State.indUpdate2_repeatSingle (s : State) (i j : Ind) : (s.indUpdate2 i j).repeatSingle = s.repeatSingle :=
  by simp [State.indUpdate2]
@[simp] theorem State.indUpdate2_ir (s : State) (i j : Ind) : (s.indUpdate2 i j).ir = s.ir := by simp [State.indUpdate2]
@[simp] theorem State.indUpdate2_irHeld (s : State) (i j : Ind) : (s.indUpdate2 i j).irHeld = s.irHeld :=
  by simp [State.indUpdate2]
@[simp] theorem State.indUpdate2_delay (s : State) (i j : Ind) : (s.indUpdate2 i j).delay = s.delay :=
  by simp [State.indUpdate2]
@[simp] theorem State.indUpdate2_busy (s : State) (i j : Ind) : (s.indUpdate2 i j).busy = s.busy :=
  by simp [State.indUpdate2]
@[simp] theorem State.indUpdate2_phase (s : State) (i j : Ind) : (s.indUpdate2 i j).phase = s.phase :=
  by simp [State.indUpdate2]
@[simp] theorem State.indUpdate2_entering (s : State) (i j : Ind) : (s.indUpdate2 i j).entering = s.entering :=
  by simp [State.indUpdate2]
@[simp] theorem State.indUpdate2_lockGlobal (s : State) (i j : Ind) : (s.indUpdate2 i j).lockGlobal = s.lockGlobal :=
  by simp [State.indUpdate2]
@[simp] theorem State.indUpdate2_lockLocal (s : State) (i j : Ind) : (s.indUpdate2 i j).lockLocal = s.lockLocal :=
  by simp [State.indUpdate2]
@[simp] theorem State.indUpdate2_iack (s : State) (i j : Ind) : (s.indUpdate2 i j).iack = s.iack :=
  by simp [State.indUpdate2]
@[simp] theorem State.indUpdate2_globalBus (s : State) (i j : Ind) : (s.indUpdate2 i j).globalBus = s.globalBus :=
  by simp [State.indUpdate2]
@[simp] theorem State.indUpdate2_localBus (s : State) (i j : Ind) : (s.indUpdate2 i j).localBus = s.localBus :=
  by simp [State.indUpdate2]
@[simp] theorem State.indUpdate2_cache (s : State) (i j : Ind) : (s.indUpdate2 i j).cache = s.cache :=
  by simp [State.indUpdate2]
@[simp] theorem State.indUpdate2_dev (s : State) (i j : Ind) : (s.indUpdate2 i j).dev = s.dev :=
  by simp [State.indUpdate2]
@[simp] theorem State.indUpdate2_pins (s : State) (i j : Ind) : (s.indUpdate2 i j).pins = s.pins :=
  by simp [State.indUpdate2]
@[simp] theorem State.indUpdate2_board (s : State) (i j : Ind) : (s.indUpdate2 i j).board = s.board :=
  by simp [State.indUpdate2]
@[simp] theorem State.indUpdate2_romImage (s : State) (i j : Ind) : (s.indUpdate2 i j).romImage = s.romImage :=
  by simp [State.indUpdate2]
@[simp] theorem State.indUpdate2_mem (s : State) (i j : Ind) : (s.indUpdate2 i j).mem = s.mem :=
  by simp [State.indUpdate2]
@[simp] theorem State.indUpdate2_nmiLast (s : State) (i j : Ind) : (s.indUpdate2 i j).nmiLast = s.nmiLast :=
  by simp [State.indUpdate2]
@[simp] theorem State.indUpdate2_iiofLast (s : State) (i j : Ind) : (s.indUpdate2 i j).iiofLast = s.iiofLast :=
  by simp [State.indUpdate2]
@[simp] theorem State.indUpdate2_ackPending (s : State) (i j : Ind) : (s.indUpdate2 i j).ackPending = s.ackPending :=
  by simp [State.indUpdate2]
@[simp] theorem State.indUpdate2_levelAck (s : State) (i j : Ind) : (s.indUpdate2 i j).levelAck = s.levelAck :=
  by simp [State.indUpdate2]
@[simp] theorem State.indUpdate2_raisePending (s : State) (i j : Ind) : (s.indUpdate2 i j).raisePending = s.raisePending :=
  by simp [State.indUpdate2]
@[simp] theorem State.indUpdate2_levelRaise (s : State) (i j : Ind) : (s.indUpdate2 i j).levelRaise = s.levelRaise :=
  by simp [State.indUpdate2]
@[simp] theorem State.indUpdate2_claimed (s : State) (i j : Ind) : (s.indUpdate2 i j).claimed = s.claimed :=
  by simp [State.indUpdate2]
@[simp] theorem State.indUpdate2_dmaHeld (s : State) (i j : Ind) : (s.indUpdate2 i j).dmaHeld = s.dmaHeld :=
  by simp [State.indUpdate2]
@[simp] theorem State.indUpdate2_waiting (s : State) (i j : Ind) : (s.indUpdate2 i j).waiting = s.waiting :=
  by simp [State.indUpdate2]
@[simp] theorem State.indUpdate2_early (s : State) (i j : Ind) : (s.indUpdate2 i j).early = s.early :=
  by simp [State.indUpdate2]
@[simp] theorem State.indUpdate2_inputs (s : State) (i j : Ind) : (s.indUpdate2 i j).inputs = s.inputs :=
  by simp [State.indUpdate2]
@[simp] theorem State.indUpdate2_outputs (s : State) (i j : Ind) : (s.indUpdate2 i j).outputs = s.outputs :=
  by simp [State.indUpdate2]
@[simp] theorem State.indUpdate2_draws (s : State) (i j : Ind) : (s.indUpdate2 i j).draws = s.draws :=
  by simp [State.indUpdate2]

/-! ### memUpdate -/

@[simp] theorem State.memUpdate_r (s : State) (m : Mem) : (s.memUpdate m).r = s.r :=
  by cases m <;> simp [State.memUpdate]
@[simp] theorem State.memUpdate_dp (s : State) (m : Mem) : (s.memUpdate m).dp = s.dp :=
  by cases m <;> simp [State.memUpdate]
@[simp] theorem State.memUpdate_ir0 (s : State) (m : Mem) : (s.memUpdate m).ir0 = s.ir0 :=
  by cases m <;> simp [State.memUpdate]
@[simp] theorem State.memUpdate_ir1 (s : State) (m : Mem) : (s.memUpdate m).ir1 = s.ir1 :=
  by cases m <;> simp [State.memUpdate]
@[simp] theorem State.memUpdate_bk (s : State) (m : Mem) : (s.memUpdate m).bk = s.bk :=
  by cases m <;> simp [State.memUpdate]
@[simp] theorem State.memUpdate_sp (s : State) (m : Mem) : (s.memUpdate m).sp = s.sp :=
  by cases m <;> simp [State.memUpdate]
@[simp] theorem State.memUpdate_st (s : State) (m : Mem) : (s.memUpdate m).st = s.st :=
  by cases m <;> simp [State.memUpdate]
@[simp] theorem State.memUpdate_die (s : State) (m : Mem) : (s.memUpdate m).die = s.die :=
  by cases m <;> simp [State.memUpdate]
@[simp] theorem State.memUpdate_iie (s : State) (m : Mem) : (s.memUpdate m).iie = s.iie :=
  by cases m <;> simp [State.memUpdate]
@[simp] theorem State.memUpdate_iif (s : State) (m : Mem) : (s.memUpdate m).iif = s.iif :=
  by cases m <;> simp [State.memUpdate]
@[simp] theorem State.memUpdate_rs (s : State) (m : Mem) : (s.memUpdate m).rs = s.rs :=
  by cases m <;> simp [State.memUpdate]
@[simp] theorem State.memUpdate_re (s : State) (m : Mem) : (s.memUpdate m).re = s.re :=
  by cases m <;> simp [State.memUpdate]
@[simp] theorem State.memUpdate_rc (s : State) (m : Mem) : (s.memUpdate m).rc = s.rc :=
  by cases m <;> simp [State.memUpdate]
@[simp] theorem State.memUpdate_ivtp (s : State) (m : Mem) : (s.memUpdate m).ivtp = s.ivtp :=
  by cases m <;> simp [State.memUpdate]
@[simp] theorem State.memUpdate_tvtp (s : State) (m : Mem) : (s.memUpdate m).tvtp = s.tvtp :=
  by cases m <;> simp [State.memUpdate]
@[simp] theorem State.memUpdate_pc (s : State) (m : Mem) : (s.memUpdate m).pc = s.pc :=
  by cases m <;> simp [State.memUpdate]
@[simp] theorem State.memUpdate_repeatSingle (s : State) (m : Mem) : (s.memUpdate m).repeatSingle = s.repeatSingle :=
  by cases m <;> simp [State.memUpdate]
@[simp] theorem State.memUpdate_ir (s : State) (m : Mem) : (s.memUpdate m).ir = s.ir :=
  by cases m <;> simp [State.memUpdate]
@[simp] theorem State.memUpdate_irHeld (s : State) (m : Mem) : (s.memUpdate m).irHeld = s.irHeld :=
  by cases m <;> simp [State.memUpdate]
@[simp] theorem State.memUpdate_delay (s : State) (m : Mem) : (s.memUpdate m).delay = s.delay :=
  by cases m <;> simp [State.memUpdate]
@[simp] theorem State.memUpdate_busy (s : State) (m : Mem) : (s.memUpdate m).busy = s.busy :=
  by cases m <;> simp [State.memUpdate]
@[simp] theorem State.memUpdate_phase (s : State) (m : Mem) : (s.memUpdate m).phase = s.phase :=
  by cases m <;> simp [State.memUpdate]
@[simp] theorem State.memUpdate_entering (s : State) (m : Mem) : (s.memUpdate m).entering = s.entering :=
  by cases m <;> simp [State.memUpdate]
@[simp] theorem State.memUpdate_lockGlobal (s : State) (m : Mem) : (s.memUpdate m).lockGlobal = s.lockGlobal :=
  by cases m <;> simp [State.memUpdate]
@[simp] theorem State.memUpdate_lockLocal (s : State) (m : Mem) : (s.memUpdate m).lockLocal = s.lockLocal :=
  by cases m <;> simp [State.memUpdate]
@[simp] theorem State.memUpdate_iack (s : State) (m : Mem) : (s.memUpdate m).iack = s.iack :=
  by cases m <;> simp [State.memUpdate]
@[simp] theorem State.memUpdate_globalBus (s : State) (m : Mem) : (s.memUpdate m).globalBus = s.globalBus :=
  by cases m <;> simp [State.memUpdate]
@[simp] theorem State.memUpdate_localBus (s : State) (m : Mem) : (s.memUpdate m).localBus = s.localBus :=
  by cases m <;> simp [State.memUpdate]
@[simp] theorem State.memUpdate_cache (s : State) (m : Mem) : (s.memUpdate m).cache = s.cache :=
  by cases m <;> simp [State.memUpdate]
@[simp] theorem State.memUpdate_dev (s : State) (m : Mem) : (s.memUpdate m).dev = s.dev :=
  by cases m <;> simp [State.memUpdate]
@[simp] theorem State.memUpdate_pins (s : State) (m : Mem) : (s.memUpdate m).pins = s.pins :=
  by cases m <;> simp [State.memUpdate]
@[simp] theorem State.memUpdate_board (s : State) (m : Mem) : (s.memUpdate m).board = s.board :=
  by cases m <;> simp [State.memUpdate]
@[simp] theorem State.memUpdate_romImage (s : State) (m : Mem) : (s.memUpdate m).romImage = s.romImage :=
  by cases m <;> simp [State.memUpdate]
@[simp] theorem State.memUpdate_mem (s : State) (m : Mem) : (s.memUpdate m).mem = s.mem :=
  by cases m <;> simp [State.memUpdate]
@[simp] theorem State.memUpdate_nmiLast (s : State) (m : Mem) : (s.memUpdate m).nmiLast = s.nmiLast :=
  by cases m <;> simp [State.memUpdate]
@[simp] theorem State.memUpdate_iiofLast (s : State) (m : Mem) : (s.memUpdate m).iiofLast = s.iiofLast :=
  by cases m <;> simp [State.memUpdate]
@[simp] theorem State.memUpdate_ackPending (s : State) (m : Mem) : (s.memUpdate m).ackPending = s.ackPending :=
  by cases m <;> simp [State.memUpdate]
@[simp] theorem State.memUpdate_levelAck (s : State) (m : Mem) : (s.memUpdate m).levelAck = s.levelAck :=
  by cases m <;> simp [State.memUpdate]
@[simp] theorem State.memUpdate_raisePending (s : State) (m : Mem) : (s.memUpdate m).raisePending = s.raisePending :=
  by cases m <;> simp [State.memUpdate]
@[simp] theorem State.memUpdate_levelRaise (s : State) (m : Mem) : (s.memUpdate m).levelRaise = s.levelRaise :=
  by cases m <;> simp [State.memUpdate]
@[simp] theorem State.memUpdate_claimed (s : State) (m : Mem) : (s.memUpdate m).claimed = s.claimed :=
  by cases m <;> simp [State.memUpdate]
@[simp] theorem State.memUpdate_dmaHeld (s : State) (m : Mem) : (s.memUpdate m).dmaHeld = s.dmaHeld :=
  by cases m <;> simp [State.memUpdate]
@[simp] theorem State.memUpdate_waiting (s : State) (m : Mem) : (s.memUpdate m).waiting = s.waiting :=
  by cases m <;> simp [State.memUpdate]
@[simp] theorem State.memUpdate_early (s : State) (m : Mem) : (s.memUpdate m).early = s.early :=
  by cases m <;> simp [State.memUpdate]
@[simp] theorem State.memUpdate_inputs (s : State) (m : Mem) : (s.memUpdate m).inputs = s.inputs :=
  by cases m <;> simp [State.memUpdate]
@[simp] theorem State.memUpdate_outputs (s : State) (m : Mem) : (s.memUpdate m).outputs = s.outputs :=
  by cases m <;> simp [State.memUpdate]
@[simp] theorem State.memUpdate_draws (s : State) (m : Mem) : (s.memUpdate m).draws = s.draws :=
  by cases m <;> simp [State.memUpdate]

/-! ### result -/

@[simp] theorem State.result_ivtp (s : State) (d : Reg) (x : Word × Flags) : (s.result d x).ivtp = s.ivtp :=
  by unfold State.result; split <;> simp
@[simp] theorem State.result_tvtp (s : State) (d : Reg) (x : Word × Flags) : (s.result d x).tvtp = s.tvtp :=
  by unfold State.result; split <;> simp
@[simp] theorem State.result_pc (s : State) (d : Reg) (x : Word × Flags) : (s.result d x).pc = s.pc :=
  by unfold State.result; split <;> simp
@[simp] theorem State.result_repeatSingle (s : State) (d : Reg) (x : Word × Flags) : (s.result d x).repeatSingle = s.repeatSingle :=
  by unfold State.result; split <;> simp
@[simp] theorem State.result_ir (s : State) (d : Reg) (x : Word × Flags) : (s.result d x).ir = s.ir :=
  by unfold State.result; split <;> simp
@[simp] theorem State.result_irHeld (s : State) (d : Reg) (x : Word × Flags) : (s.result d x).irHeld = s.irHeld :=
  by unfold State.result; split <;> simp
@[simp] theorem State.result_delay (s : State) (d : Reg) (x : Word × Flags) : (s.result d x).delay = s.delay :=
  by unfold State.result; split <;> simp
@[simp] theorem State.result_busy (s : State) (d : Reg) (x : Word × Flags) : (s.result d x).busy = s.busy :=
  by unfold State.result; split <;> simp
@[simp] theorem State.result_phase (s : State) (d : Reg) (x : Word × Flags) : (s.result d x).phase = s.phase :=
  by unfold State.result; split <;> simp
@[simp] theorem State.result_entering (s : State) (d : Reg) (x : Word × Flags) : (s.result d x).entering = s.entering :=
  by unfold State.result; split <;> simp
@[simp] theorem State.result_lockGlobal (s : State) (d : Reg) (x : Word × Flags) : (s.result d x).lockGlobal = s.lockGlobal :=
  by unfold State.result; split <;> simp
@[simp] theorem State.result_lockLocal (s : State) (d : Reg) (x : Word × Flags) : (s.result d x).lockLocal = s.lockLocal :=
  by unfold State.result; split <;> simp
@[simp] theorem State.result_iack (s : State) (d : Reg) (x : Word × Flags) : (s.result d x).iack = s.iack :=
  by unfold State.result; split <;> simp
@[simp] theorem State.result_globalBus (s : State) (d : Reg) (x : Word × Flags) : (s.result d x).globalBus = s.globalBus :=
  by unfold State.result; split <;> simp
@[simp] theorem State.result_localBus (s : State) (d : Reg) (x : Word × Flags) : (s.result d x).localBus = s.localBus :=
  by unfold State.result; split <;> simp
@[simp] theorem State.result_dev (s : State) (d : Reg) (x : Word × Flags) : (s.result d x).dev = s.dev :=
  by unfold State.result; split <;> simp
@[simp] theorem State.result_pins (s : State) (d : Reg) (x : Word × Flags) : (s.result d x).pins = s.pins :=
  by unfold State.result; split <;> simp
@[simp] theorem State.result_board (s : State) (d : Reg) (x : Word × Flags) : (s.result d x).board = s.board :=
  by unfold State.result; split <;> simp
@[simp] theorem State.result_romImage (s : State) (d : Reg) (x : Word × Flags) : (s.result d x).romImage = s.romImage :=
  by unfold State.result; split <;> simp
@[simp] theorem State.result_mem (s : State) (d : Reg) (x : Word × Flags) : (s.result d x).mem = s.mem :=
  by unfold State.result; split <;> simp
@[simp] theorem State.result_nmiLast (s : State) (d : Reg) (x : Word × Flags) : (s.result d x).nmiLast = s.nmiLast :=
  by unfold State.result; split <;> simp
@[simp] theorem State.result_iiofLast (s : State) (d : Reg) (x : Word × Flags) : (s.result d x).iiofLast = s.iiofLast :=
  by unfold State.result; split <;> simp
@[simp] theorem State.result_levelAck (s : State) (d : Reg) (x : Word × Flags) : (s.result d x).levelAck = s.levelAck :=
  by unfold State.result; split <;> simp
@[simp] theorem State.result_levelRaise (s : State) (d : Reg) (x : Word × Flags) : (s.result d x).levelRaise = s.levelRaise :=
  by unfold State.result; split <;> simp
@[simp] theorem State.result_dmaHeld (s : State) (d : Reg) (x : Word × Flags) : (s.result d x).dmaHeld = s.dmaHeld :=
  by unfold State.result; split <;> simp
@[simp] theorem State.result_waiting (s : State) (d : Reg) (x : Word × Flags) : (s.result d x).waiting = s.waiting :=
  by unfold State.result; split <;> simp
@[simp] theorem State.result_early (s : State) (d : Reg) (x : Word × Flags) : (s.result d x).early = s.early :=
  by unfold State.result; split <;> simp
@[simp] theorem State.result_inputs (s : State) (d : Reg) (x : Word × Flags) : (s.result d x).inputs = s.inputs :=
  by unfold State.result; split <;> simp
@[simp] theorem State.result_outputs (s : State) (d : Reg) (x : Word × Flags) : (s.result d x).outputs = s.outputs :=
  by unfold State.result; split <;> simp
@[simp] theorem State.result_draws (s : State) (d : Reg) (x : Word × Flags) : (s.result d x).draws = s.draws :=
  by unfold State.result; split <;> simp

/-! ### resultF -/

@[simp] theorem State.resultF_ar (s : State) (d : FReg) (x : Ext × Flags) : (s.resultF d x).ar = s.ar := rfl
@[simp] theorem State.resultF_dp (s : State) (d : FReg) (x : Ext × Flags) : (s.resultF d x).dp = s.dp := rfl
@[simp] theorem State.resultF_ir0 (s : State) (d : FReg) (x : Ext × Flags) : (s.resultF d x).ir0 = s.ir0 := rfl
@[simp] theorem State.resultF_ir1 (s : State) (d : FReg) (x : Ext × Flags) : (s.resultF d x).ir1 = s.ir1 := rfl
@[simp] theorem State.resultF_bk (s : State) (d : FReg) (x : Ext × Flags) : (s.resultF d x).bk = s.bk := rfl
@[simp] theorem State.resultF_sp (s : State) (d : FReg) (x : Ext × Flags) : (s.resultF d x).sp = s.sp := rfl
@[simp] theorem State.resultF_die (s : State) (d : FReg) (x : Ext × Flags) : (s.resultF d x).die = s.die := rfl
@[simp] theorem State.resultF_iie (s : State) (d : FReg) (x : Ext × Flags) : (s.resultF d x).iie = s.iie := rfl
@[simp] theorem State.resultF_iif (s : State) (d : FReg) (x : Ext × Flags) : (s.resultF d x).iif = s.iif := rfl
@[simp] theorem State.resultF_rs (s : State) (d : FReg) (x : Ext × Flags) : (s.resultF d x).rs = s.rs := rfl
@[simp] theorem State.resultF_re (s : State) (d : FReg) (x : Ext × Flags) : (s.resultF d x).re = s.re := rfl
@[simp] theorem State.resultF_rc (s : State) (d : FReg) (x : Ext × Flags) : (s.resultF d x).rc = s.rc := rfl
@[simp] theorem State.resultF_ivtp (s : State) (d : FReg) (x : Ext × Flags) : (s.resultF d x).ivtp = s.ivtp := rfl
@[simp] theorem State.resultF_tvtp (s : State) (d : FReg) (x : Ext × Flags) : (s.resultF d x).tvtp = s.tvtp := rfl
@[simp] theorem State.resultF_pc (s : State) (d : FReg) (x : Ext × Flags) : (s.resultF d x).pc = s.pc := rfl
@[simp] theorem State.resultF_repeatSingle (s : State) (d : FReg) (x : Ext × Flags) : (s.resultF d x).repeatSingle = s.repeatSingle :=
  rfl
@[simp] theorem State.resultF_ir (s : State) (d : FReg) (x : Ext × Flags) : (s.resultF d x).ir = s.ir := rfl
@[simp] theorem State.resultF_irHeld (s : State) (d : FReg) (x : Ext × Flags) : (s.resultF d x).irHeld = s.irHeld := rfl
@[simp] theorem State.resultF_delay (s : State) (d : FReg) (x : Ext × Flags) : (s.resultF d x).delay = s.delay := rfl
@[simp] theorem State.resultF_busy (s : State) (d : FReg) (x : Ext × Flags) : (s.resultF d x).busy = s.busy := rfl
@[simp] theorem State.resultF_phase (s : State) (d : FReg) (x : Ext × Flags) : (s.resultF d x).phase = s.phase := rfl
@[simp] theorem State.resultF_entering (s : State) (d : FReg) (x : Ext × Flags) : (s.resultF d x).entering = s.entering :=
  rfl
@[simp] theorem State.resultF_lockGlobal (s : State) (d : FReg) (x : Ext × Flags) : (s.resultF d x).lockGlobal = s.lockGlobal :=
  rfl
@[simp] theorem State.resultF_lockLocal (s : State) (d : FReg) (x : Ext × Flags) : (s.resultF d x).lockLocal = s.lockLocal :=
  rfl
@[simp] theorem State.resultF_iack (s : State) (d : FReg) (x : Ext × Flags) : (s.resultF d x).iack = s.iack := rfl
@[simp] theorem State.resultF_globalBus (s : State) (d : FReg) (x : Ext × Flags) : (s.resultF d x).globalBus = s.globalBus :=
  rfl
@[simp] theorem State.resultF_localBus (s : State) (d : FReg) (x : Ext × Flags) : (s.resultF d x).localBus = s.localBus :=
  rfl
@[simp] theorem State.resultF_cache (s : State) (d : FReg) (x : Ext × Flags) : (s.resultF d x).cache = s.cache := rfl
@[simp] theorem State.resultF_dev (s : State) (d : FReg) (x : Ext × Flags) : (s.resultF d x).dev = s.dev := rfl
@[simp] theorem State.resultF_pins (s : State) (d : FReg) (x : Ext × Flags) : (s.resultF d x).pins = s.pins := rfl
@[simp] theorem State.resultF_board (s : State) (d : FReg) (x : Ext × Flags) : (s.resultF d x).board = s.board := rfl
@[simp] theorem State.resultF_romImage (s : State) (d : FReg) (x : Ext × Flags) : (s.resultF d x).romImage = s.romImage := rfl
@[simp] theorem State.resultF_mem (s : State) (d : FReg) (x : Ext × Flags) : (s.resultF d x).mem = s.mem := rfl
@[simp] theorem State.resultF_nmiLast (s : State) (d : FReg) (x : Ext × Flags) : (s.resultF d x).nmiLast = s.nmiLast :=
  rfl
@[simp] theorem State.resultF_iiofLast (s : State) (d : FReg) (x : Ext × Flags) : (s.resultF d x).iiofLast = s.iiofLast :=
  rfl
@[simp] theorem State.resultF_ackPending (s : State) (d : FReg) (x : Ext × Flags) : (s.resultF d x).ackPending = s.ackPending :=
  rfl
@[simp] theorem State.resultF_levelAck (s : State) (d : FReg) (x : Ext × Flags) : (s.resultF d x).levelAck = s.levelAck :=
  rfl
@[simp] theorem State.resultF_raisePending (s : State) (d : FReg) (x : Ext × Flags) : (s.resultF d x).raisePending = s.raisePending :=
  rfl
@[simp] theorem State.resultF_levelRaise (s : State) (d : FReg) (x : Ext × Flags) : (s.resultF d x).levelRaise = s.levelRaise :=
  rfl
@[simp] theorem State.resultF_claimed (s : State) (d : FReg) (x : Ext × Flags) : (s.resultF d x).claimed = s.claimed :=
  rfl
@[simp] theorem State.resultF_dmaHeld (s : State) (d : FReg) (x : Ext × Flags) : (s.resultF d x).dmaHeld = s.dmaHeld :=
  rfl
@[simp] theorem State.resultF_waiting (s : State) (d : FReg) (x : Ext × Flags) : (s.resultF d x).waiting = s.waiting :=
  rfl
@[simp] theorem State.resultF_early (s : State) (d : FReg) (x : Ext × Flags) : (s.resultF d x).early = s.early :=
  rfl
@[simp] theorem State.resultF_inputs (s : State) (d : FReg) (x : Ext × Flags) : (s.resultF d x).inputs = s.inputs := rfl
@[simp] theorem State.resultF_outputs (s : State) (d : FReg) (x : Ext × Flags) : (s.resultF d x).outputs = s.outputs :=
  rfl
@[simp] theorem State.resultF_draws (s : State) (d : FReg) (x : Ext × Flags) : (s.resultF d x).draws = s.draws := rfl

/-! ### jump -/

@[simp] theorem State.jump_r (s : State) (a : Word) : (s.jump a).r = s.r := rfl
@[simp] theorem State.jump_ar (s : State) (a : Word) : (s.jump a).ar = s.ar := rfl
@[simp] theorem State.jump_dp (s : State) (a : Word) : (s.jump a).dp = s.dp := rfl
@[simp] theorem State.jump_ir0 (s : State) (a : Word) : (s.jump a).ir0 = s.ir0 := rfl
@[simp] theorem State.jump_ir1 (s : State) (a : Word) : (s.jump a).ir1 = s.ir1 := rfl
@[simp] theorem State.jump_bk (s : State) (a : Word) : (s.jump a).bk = s.bk := rfl
@[simp] theorem State.jump_sp (s : State) (a : Word) : (s.jump a).sp = s.sp := rfl
@[simp] theorem State.jump_st (s : State) (a : Word) : (s.jump a).st = s.st := rfl
@[simp] theorem State.jump_die (s : State) (a : Word) : (s.jump a).die = s.die := rfl
@[simp] theorem State.jump_iie (s : State) (a : Word) : (s.jump a).iie = s.iie := rfl
@[simp] theorem State.jump_iif (s : State) (a : Word) : (s.jump a).iif = s.iif := rfl
@[simp] theorem State.jump_rs (s : State) (a : Word) : (s.jump a).rs = s.rs := rfl
@[simp] theorem State.jump_re (s : State) (a : Word) : (s.jump a).re = s.re := rfl
@[simp] theorem State.jump_rc (s : State) (a : Word) : (s.jump a).rc = s.rc := rfl
@[simp] theorem State.jump_ivtp (s : State) (a : Word) : (s.jump a).ivtp = s.ivtp := rfl
@[simp] theorem State.jump_tvtp (s : State) (a : Word) : (s.jump a).tvtp = s.tvtp := rfl
@[simp] theorem State.jump_repeatSingle (s : State) (a : Word) : (s.jump a).repeatSingle = s.repeatSingle := rfl
@[simp] theorem State.jump_ir (s : State) (a : Word) : (s.jump a).ir = s.ir := rfl
@[simp] theorem State.jump_irHeld (s : State) (a : Word) : (s.jump a).irHeld = s.irHeld := rfl
@[simp] theorem State.jump_delay (s : State) (a : Word) : (s.jump a).delay = s.delay := rfl
@[simp] theorem State.jump_busy (s : State) (a : Word) : (s.jump a).busy = s.busy := rfl
@[simp] theorem State.jump_phase (s : State) (a : Word) : (s.jump a).phase = s.phase := rfl
@[simp] theorem State.jump_entering (s : State) (a : Word) : (s.jump a).entering = s.entering := rfl
@[simp] theorem State.jump_lockGlobal (s : State) (a : Word) : (s.jump a).lockGlobal = s.lockGlobal := rfl
@[simp] theorem State.jump_lockLocal (s : State) (a : Word) : (s.jump a).lockLocal = s.lockLocal := rfl
@[simp] theorem State.jump_iack (s : State) (a : Word) : (s.jump a).iack = s.iack := rfl
@[simp] theorem State.jump_globalBus (s : State) (a : Word) : (s.jump a).globalBus = s.globalBus := rfl
@[simp] theorem State.jump_localBus (s : State) (a : Word) : (s.jump a).localBus = s.localBus := rfl
@[simp] theorem State.jump_cache (s : State) (a : Word) : (s.jump a).cache = s.cache := rfl
@[simp] theorem State.jump_dev (s : State) (a : Word) : (s.jump a).dev = s.dev := rfl
@[simp] theorem State.jump_pins (s : State) (a : Word) : (s.jump a).pins = s.pins := rfl
@[simp] theorem State.jump_board (s : State) (a : Word) : (s.jump a).board = s.board := rfl
@[simp] theorem State.jump_romImage (s : State) (a : Word) : (s.jump a).romImage = s.romImage := rfl
@[simp] theorem State.jump_mem (s : State) (a : Word) : (s.jump a).mem = s.mem := rfl
@[simp] theorem State.jump_nmiLast (s : State) (a : Word) : (s.jump a).nmiLast = s.nmiLast := rfl
@[simp] theorem State.jump_iiofLast (s : State) (a : Word) : (s.jump a).iiofLast = s.iiofLast := rfl
@[simp] theorem State.jump_ackPending (s : State) (a : Word) : (s.jump a).ackPending = s.ackPending := rfl
@[simp] theorem State.jump_levelAck (s : State) (a : Word) : (s.jump a).levelAck = s.levelAck := rfl
@[simp] theorem State.jump_raisePending (s : State) (a : Word) : (s.jump a).raisePending = s.raisePending := rfl
@[simp] theorem State.jump_levelRaise (s : State) (a : Word) : (s.jump a).levelRaise = s.levelRaise := rfl
@[simp] theorem State.jump_claimed (s : State) (a : Word) : (s.jump a).claimed = s.claimed := rfl
@[simp] theorem State.jump_dmaHeld (s : State) (a : Word) : (s.jump a).dmaHeld = s.dmaHeld := rfl
@[simp] theorem State.jump_waiting (s : State) (a : Word) : (s.jump a).waiting = s.waiting := rfl
@[simp] theorem State.jump_early (s : State) (a : Word) : (s.jump a).early = s.early := rfl
@[simp] theorem State.jump_inputs (s : State) (a : Word) : (s.jump a).inputs = s.inputs := rfl
@[simp] theorem State.jump_outputs (s : State) (a : Word) : (s.jump a).outputs = s.outputs := rfl
@[simp] theorem State.jump_draws (s : State) (a : Word) : (s.jump a).draws = s.draws := rfl

/-! ### delayed -/

@[simp] theorem State.delayed_r (s : State) (a : Word) (n : Bool) (k : DelayKind) : (s.delayed a n k).r = s.r := rfl
@[simp] theorem State.delayed_ar (s : State) (a : Word) (n : Bool) (k : DelayKind) : (s.delayed a n k).ar = s.ar := rfl
@[simp] theorem State.delayed_dp (s : State) (a : Word) (n : Bool) (k : DelayKind) : (s.delayed a n k).dp = s.dp := rfl
@[simp] theorem State.delayed_ir0 (s : State) (a : Word) (n : Bool) (k : DelayKind) : (s.delayed a n k).ir0 = s.ir0 :=
  rfl
@[simp] theorem State.delayed_ir1 (s : State) (a : Word) (n : Bool) (k : DelayKind) : (s.delayed a n k).ir1 = s.ir1 :=
  rfl
@[simp] theorem State.delayed_bk (s : State) (a : Word) (n : Bool) (k : DelayKind) : (s.delayed a n k).bk = s.bk := rfl
@[simp] theorem State.delayed_sp (s : State) (a : Word) (n : Bool) (k : DelayKind) : (s.delayed a n k).sp = s.sp := rfl
@[simp] theorem State.delayed_st (s : State) (a : Word) (n : Bool) (k : DelayKind) : (s.delayed a n k).st = s.st := rfl
@[simp] theorem State.delayed_die (s : State) (a : Word) (n : Bool) (k : DelayKind) : (s.delayed a n k).die = s.die :=
  rfl
@[simp] theorem State.delayed_iie (s : State) (a : Word) (n : Bool) (k : DelayKind) : (s.delayed a n k).iie = s.iie :=
  rfl
@[simp] theorem State.delayed_iif (s : State) (a : Word) (n : Bool) (k : DelayKind) : (s.delayed a n k).iif = s.iif :=
  rfl
@[simp] theorem State.delayed_rs (s : State) (a : Word) (n : Bool) (k : DelayKind) : (s.delayed a n k).rs = s.rs := rfl
@[simp] theorem State.delayed_re (s : State) (a : Word) (n : Bool) (k : DelayKind) : (s.delayed a n k).re = s.re := rfl
@[simp] theorem State.delayed_rc (s : State) (a : Word) (n : Bool) (k : DelayKind) : (s.delayed a n k).rc = s.rc := rfl
@[simp] theorem State.delayed_ivtp (s : State) (a : Word) (n : Bool) (k : DelayKind) : (s.delayed a n k).ivtp = s.ivtp :=
  rfl
@[simp] theorem State.delayed_tvtp (s : State) (a : Word) (n : Bool) (k : DelayKind) : (s.delayed a n k).tvtp = s.tvtp :=
  rfl
@[simp] theorem State.delayed_pc (s : State) (a : Word) (n : Bool) (k : DelayKind) : (s.delayed a n k).pc = s.pc := rfl
@[simp] theorem State.delayed_repeatSingle (s : State) (a : Word) (n : Bool) (k : DelayKind) : (s.delayed a n k).repeatSingle = s.repeatSingle :=
  rfl
@[simp] theorem State.delayed_ir (s : State) (a : Word) (n : Bool) (k : DelayKind) : (s.delayed a n k).ir = s.ir := rfl
@[simp] theorem State.delayed_irHeld (s : State) (a : Word) (n : Bool) (k : DelayKind) : (s.delayed a n k).irHeld = s.irHeld :=
  rfl
@[simp] theorem State.delayed_busy (s : State) (a : Word) (n : Bool) (k : DelayKind) : (s.delayed a n k).busy = s.busy :=
  rfl
@[simp] theorem State.delayed_phase (s : State) (a : Word) (n : Bool) (k : DelayKind) : (s.delayed a n k).phase = s.phase :=
  rfl
@[simp] theorem State.delayed_entering (s : State) (a : Word) (n : Bool) (k : DelayKind) : (s.delayed a n k).entering = s.entering :=
  rfl
@[simp] theorem State.delayed_lockGlobal (s : State) (a : Word) (n : Bool) (k : DelayKind) : (s.delayed a n k).lockGlobal = s.lockGlobal :=
  rfl
@[simp] theorem State.delayed_lockLocal (s : State) (a : Word) (n : Bool) (k : DelayKind) : (s.delayed a n k).lockLocal = s.lockLocal :=
  rfl
@[simp] theorem State.delayed_iack (s : State) (a : Word) (n : Bool) (k : DelayKind) : (s.delayed a n k).iack = s.iack :=
  rfl
@[simp] theorem State.delayed_globalBus (s : State) (a : Word) (n : Bool) (k : DelayKind) : (s.delayed a n k).globalBus = s.globalBus :=
  rfl
@[simp] theorem State.delayed_localBus (s : State) (a : Word) (n : Bool) (k : DelayKind) : (s.delayed a n k).localBus = s.localBus :=
  rfl
@[simp] theorem State.delayed_cache (s : State) (a : Word) (n : Bool) (k : DelayKind) : (s.delayed a n k).cache = s.cache :=
  rfl
@[simp] theorem State.delayed_dev (s : State) (a : Word) (n : Bool) (k : DelayKind) : (s.delayed a n k).dev = s.dev :=
  rfl
@[simp] theorem State.delayed_pins (s : State) (a : Word) (n : Bool) (k : DelayKind) : (s.delayed a n k).pins = s.pins :=
  rfl
@[simp] theorem State.delayed_board (s : State) (a : Word) (n : Bool) (k : DelayKind) : (s.delayed a n k).board = s.board :=
  rfl
@[simp] theorem State.delayed_romImage (s : State) (a : Word) (n : Bool) (k : DelayKind) : (s.delayed a n k).romImage = s.romImage :=
  rfl
@[simp] theorem State.delayed_mem (s : State) (a : Word) (n : Bool) (k : DelayKind) : (s.delayed a n k).mem = s.mem :=
  rfl
@[simp] theorem State.delayed_nmiLast (s : State) (a : Word) (n : Bool) (k : DelayKind) : (s.delayed a n k).nmiLast = s.nmiLast :=
  rfl
@[simp] theorem State.delayed_iiofLast (s : State) (a : Word) (n : Bool) (k : DelayKind) : (s.delayed a n k).iiofLast = s.iiofLast :=
  rfl
@[simp] theorem State.delayed_ackPending (s : State) (a : Word) (n : Bool) (k : DelayKind) : (s.delayed a n k).ackPending = s.ackPending :=
  rfl
@[simp] theorem State.delayed_levelAck (s : State) (a : Word) (n : Bool) (k : DelayKind) : (s.delayed a n k).levelAck = s.levelAck :=
  rfl
@[simp] theorem State.delayed_raisePending (s : State) (a : Word) (n : Bool) (k : DelayKind) : (s.delayed a n k).raisePending = s.raisePending :=
  rfl
@[simp] theorem State.delayed_levelRaise (s : State) (a : Word) (n : Bool) (k : DelayKind) : (s.delayed a n k).levelRaise = s.levelRaise :=
  rfl
@[simp] theorem State.delayed_claimed (s : State) (a : Word) (n : Bool) (k : DelayKind) : (s.delayed a n k).claimed = s.claimed :=
  rfl
@[simp] theorem State.delayed_dmaHeld (s : State) (a : Word) (n : Bool) (k : DelayKind) : (s.delayed a n k).dmaHeld = s.dmaHeld :=
  rfl
@[simp] theorem State.delayed_waiting (s : State) (a : Word) (n : Bool) (k : DelayKind) : (s.delayed a n k).waiting = s.waiting :=
  rfl
@[simp] theorem State.delayed_early (s : State) (a : Word) (n : Bool) (k : DelayKind) : (s.delayed a n k).early = s.early :=
  rfl
@[simp] theorem State.delayed_inputs (s : State) (a : Word) (n : Bool) (k : DelayKind) : (s.delayed a n k).inputs = s.inputs :=
  rfl
@[simp] theorem State.delayed_outputs (s : State) (a : Word) (n : Bool) (k : DelayKind) : (s.delayed a n k).outputs = s.outputs :=
  rfl
@[simp] theorem State.delayed_draws (s : State) (a : Word) (n : Bool) (k : DelayKind) : (s.delayed a n k).draws = s.draws :=
  rfl

/-! ### decrement -/

@[simp] theorem State.decrement_r (s : State) (n : Fin 8) : (s.decrement n).r = s.r := rfl
@[simp] theorem State.decrement_dp (s : State) (n : Fin 8) : (s.decrement n).dp = s.dp := rfl
@[simp] theorem State.decrement_ir0 (s : State) (n : Fin 8) : (s.decrement n).ir0 = s.ir0 := rfl
@[simp] theorem State.decrement_ir1 (s : State) (n : Fin 8) : (s.decrement n).ir1 = s.ir1 := rfl
@[simp] theorem State.decrement_bk (s : State) (n : Fin 8) : (s.decrement n).bk = s.bk := rfl
@[simp] theorem State.decrement_sp (s : State) (n : Fin 8) : (s.decrement n).sp = s.sp := rfl
@[simp] theorem State.decrement_st (s : State) (n : Fin 8) : (s.decrement n).st = s.st := rfl
@[simp] theorem State.decrement_die (s : State) (n : Fin 8) : (s.decrement n).die = s.die := rfl
@[simp] theorem State.decrement_iie (s : State) (n : Fin 8) : (s.decrement n).iie = s.iie := rfl
@[simp] theorem State.decrement_iif (s : State) (n : Fin 8) : (s.decrement n).iif = s.iif := rfl
@[simp] theorem State.decrement_rs (s : State) (n : Fin 8) : (s.decrement n).rs = s.rs := rfl
@[simp] theorem State.decrement_re (s : State) (n : Fin 8) : (s.decrement n).re = s.re := rfl
@[simp] theorem State.decrement_rc (s : State) (n : Fin 8) : (s.decrement n).rc = s.rc := rfl
@[simp] theorem State.decrement_ivtp (s : State) (n : Fin 8) : (s.decrement n).ivtp = s.ivtp := rfl
@[simp] theorem State.decrement_tvtp (s : State) (n : Fin 8) : (s.decrement n).tvtp = s.tvtp := rfl
@[simp] theorem State.decrement_pc (s : State) (n : Fin 8) : (s.decrement n).pc = s.pc := rfl
@[simp] theorem State.decrement_repeatSingle (s : State) (n : Fin 8) : (s.decrement n).repeatSingle = s.repeatSingle :=
  rfl
@[simp] theorem State.decrement_ir (s : State) (n : Fin 8) : (s.decrement n).ir = s.ir := rfl
@[simp] theorem State.decrement_irHeld (s : State) (n : Fin 8) : (s.decrement n).irHeld = s.irHeld := rfl
@[simp] theorem State.decrement_delay (s : State) (n : Fin 8) : (s.decrement n).delay = s.delay := rfl
@[simp] theorem State.decrement_busy (s : State) (n : Fin 8) : (s.decrement n).busy = s.busy := rfl
@[simp] theorem State.decrement_phase (s : State) (n : Fin 8) : (s.decrement n).phase = s.phase := rfl
@[simp] theorem State.decrement_entering (s : State) (n : Fin 8) : (s.decrement n).entering = s.entering := rfl
@[simp] theorem State.decrement_lockGlobal (s : State) (n : Fin 8) : (s.decrement n).lockGlobal = s.lockGlobal := rfl
@[simp] theorem State.decrement_lockLocal (s : State) (n : Fin 8) : (s.decrement n).lockLocal = s.lockLocal := rfl
@[simp] theorem State.decrement_iack (s : State) (n : Fin 8) : (s.decrement n).iack = s.iack := rfl
@[simp] theorem State.decrement_globalBus (s : State) (n : Fin 8) : (s.decrement n).globalBus = s.globalBus := rfl
@[simp] theorem State.decrement_localBus (s : State) (n : Fin 8) : (s.decrement n).localBus = s.localBus := rfl
@[simp] theorem State.decrement_cache (s : State) (n : Fin 8) : (s.decrement n).cache = s.cache := rfl
@[simp] theorem State.decrement_dev (s : State) (n : Fin 8) : (s.decrement n).dev = s.dev := rfl
@[simp] theorem State.decrement_pins (s : State) (n : Fin 8) : (s.decrement n).pins = s.pins := rfl
@[simp] theorem State.decrement_board (s : State) (n : Fin 8) : (s.decrement n).board = s.board := rfl
@[simp] theorem State.decrement_romImage (s : State) (n : Fin 8) : (s.decrement n).romImage = s.romImage := rfl
@[simp] theorem State.decrement_mem (s : State) (n : Fin 8) : (s.decrement n).mem = s.mem := rfl
@[simp] theorem State.decrement_nmiLast (s : State) (n : Fin 8) : (s.decrement n).nmiLast = s.nmiLast := rfl
@[simp] theorem State.decrement_iiofLast (s : State) (n : Fin 8) : (s.decrement n).iiofLast = s.iiofLast := rfl
@[simp] theorem State.decrement_ackPending (s : State) (n : Fin 8) : (s.decrement n).ackPending = s.ackPending := rfl
@[simp] theorem State.decrement_levelAck (s : State) (n : Fin 8) : (s.decrement n).levelAck = s.levelAck := rfl
@[simp] theorem State.decrement_raisePending (s : State) (n : Fin 8) : (s.decrement n).raisePending = s.raisePending :=
  rfl
@[simp] theorem State.decrement_levelRaise (s : State) (n : Fin 8) : (s.decrement n).levelRaise = s.levelRaise := rfl
@[simp] theorem State.decrement_claimed (s : State) (n : Fin 8) : (s.decrement n).claimed = s.claimed := rfl
@[simp] theorem State.decrement_dmaHeld (s : State) (n : Fin 8) : (s.decrement n).dmaHeld = s.dmaHeld := rfl
@[simp] theorem State.decrement_waiting (s : State) (n : Fin 8) : (s.decrement n).waiting = s.waiting := rfl
@[simp] theorem State.decrement_early (s : State) (n : Fin 8) : (s.decrement n).early = s.early := rfl
@[simp] theorem State.decrement_inputs (s : State) (n : Fin 8) : (s.decrement n).inputs = s.inputs := rfl
@[simp] theorem State.decrement_outputs (s : State) (n : Fin 8) : (s.decrement n).outputs = s.outputs := rfl
@[simp] theorem State.decrement_draws (s : State) (n : Fin 8) : (s.decrement n).draws = s.draws := rfl

/-! ### repeatBlock -/

@[simp] theorem State.repeatBlock_r (s : State) (a b : Word) : (s.repeatBlock a b).r = s.r := rfl
@[simp] theorem State.repeatBlock_ar (s : State) (a b : Word) : (s.repeatBlock a b).ar = s.ar := rfl
@[simp] theorem State.repeatBlock_dp (s : State) (a b : Word) : (s.repeatBlock a b).dp = s.dp := rfl
@[simp] theorem State.repeatBlock_ir0 (s : State) (a b : Word) : (s.repeatBlock a b).ir0 = s.ir0 := rfl
@[simp] theorem State.repeatBlock_ir1 (s : State) (a b : Word) : (s.repeatBlock a b).ir1 = s.ir1 := rfl
@[simp] theorem State.repeatBlock_bk (s : State) (a b : Word) : (s.repeatBlock a b).bk = s.bk := rfl
@[simp] theorem State.repeatBlock_sp (s : State) (a b : Word) : (s.repeatBlock a b).sp = s.sp := rfl
@[simp] theorem State.repeatBlock_die (s : State) (a b : Word) : (s.repeatBlock a b).die = s.die := rfl
@[simp] theorem State.repeatBlock_iie (s : State) (a b : Word) : (s.repeatBlock a b).iie = s.iie := rfl
@[simp] theorem State.repeatBlock_iif (s : State) (a b : Word) : (s.repeatBlock a b).iif = s.iif := rfl
@[simp] theorem State.repeatBlock_rc (s : State) (a b : Word) : (s.repeatBlock a b).rc = s.rc := rfl
@[simp] theorem State.repeatBlock_ivtp (s : State) (a b : Word) : (s.repeatBlock a b).ivtp = s.ivtp := rfl
@[simp] theorem State.repeatBlock_tvtp (s : State) (a b : Word) : (s.repeatBlock a b).tvtp = s.tvtp := rfl
@[simp] theorem State.repeatBlock_pc (s : State) (a b : Word) : (s.repeatBlock a b).pc = s.pc := rfl
@[simp] theorem State.repeatBlock_ir (s : State) (a b : Word) : (s.repeatBlock a b).ir = s.ir := rfl
@[simp] theorem State.repeatBlock_irHeld (s : State) (a b : Word) : (s.repeatBlock a b).irHeld = s.irHeld := rfl
@[simp] theorem State.repeatBlock_delay (s : State) (a b : Word) : (s.repeatBlock a b).delay = s.delay := rfl
@[simp] theorem State.repeatBlock_busy (s : State) (a b : Word) : (s.repeatBlock a b).busy = s.busy := rfl
@[simp] theorem State.repeatBlock_phase (s : State) (a b : Word) : (s.repeatBlock a b).phase = s.phase := rfl
@[simp] theorem State.repeatBlock_entering (s : State) (a b : Word) : (s.repeatBlock a b).entering = s.entering := rfl
@[simp] theorem State.repeatBlock_lockGlobal (s : State) (a b : Word) : (s.repeatBlock a b).lockGlobal = s.lockGlobal :=
  rfl
@[simp] theorem State.repeatBlock_lockLocal (s : State) (a b : Word) : (s.repeatBlock a b).lockLocal = s.lockLocal :=
  rfl
@[simp] theorem State.repeatBlock_iack (s : State) (a b : Word) : (s.repeatBlock a b).iack = s.iack := rfl
@[simp] theorem State.repeatBlock_globalBus (s : State) (a b : Word) : (s.repeatBlock a b).globalBus = s.globalBus :=
  rfl
@[simp] theorem State.repeatBlock_localBus (s : State) (a b : Word) : (s.repeatBlock a b).localBus = s.localBus := rfl
@[simp] theorem State.repeatBlock_cache (s : State) (a b : Word) : (s.repeatBlock a b).cache = s.cache := rfl
@[simp] theorem State.repeatBlock_dev (s : State) (a b : Word) : (s.repeatBlock a b).dev = s.dev := rfl
@[simp] theorem State.repeatBlock_pins (s : State) (a b : Word) : (s.repeatBlock a b).pins = s.pins := rfl
@[simp] theorem State.repeatBlock_board (s : State) (a b : Word) : (s.repeatBlock a b).board = s.board := rfl
@[simp] theorem State.repeatBlock_romImage (s : State) (a b : Word) : (s.repeatBlock a b).romImage = s.romImage := rfl
@[simp] theorem State.repeatBlock_mem (s : State) (a b : Word) : (s.repeatBlock a b).mem = s.mem := rfl
@[simp] theorem State.repeatBlock_nmiLast (s : State) (a b : Word) : (s.repeatBlock a b).nmiLast = s.nmiLast := rfl
@[simp] theorem State.repeatBlock_iiofLast (s : State) (a b : Word) : (s.repeatBlock a b).iiofLast = s.iiofLast := rfl
@[simp] theorem State.repeatBlock_ackPending (s : State) (a b : Word) : (s.repeatBlock a b).ackPending = s.ackPending :=
  rfl
@[simp] theorem State.repeatBlock_levelAck (s : State) (a b : Word) : (s.repeatBlock a b).levelAck = s.levelAck := rfl
@[simp] theorem State.repeatBlock_raisePending (s : State) (a b : Word) : (s.repeatBlock a b).raisePending = s.raisePending :=
  rfl
@[simp] theorem State.repeatBlock_levelRaise (s : State) (a b : Word) : (s.repeatBlock a b).levelRaise = s.levelRaise :=
  rfl
@[simp] theorem State.repeatBlock_claimed (s : State) (a b : Word) : (s.repeatBlock a b).claimed = s.claimed := rfl
@[simp] theorem State.repeatBlock_dmaHeld (s : State) (a b : Word) : (s.repeatBlock a b).dmaHeld = s.dmaHeld := rfl
@[simp] theorem State.repeatBlock_waiting (s : State) (a b : Word) : (s.repeatBlock a b).waiting = s.waiting := rfl
@[simp] theorem State.repeatBlock_early (s : State) (a b : Word) : (s.repeatBlock a b).early = s.early := rfl
@[simp] theorem State.repeatBlock_inputs (s : State) (a b : Word) : (s.repeatBlock a b).inputs = s.inputs := rfl
@[simp] theorem State.repeatBlock_outputs (s : State) (a b : Word) : (s.repeatBlock a b).outputs = s.outputs := rfl
@[simp] theorem State.repeatBlock_draws (s : State) (a b : Word) : (s.repeatBlock a b).draws = s.draws := rfl

/-! ### wait -/

@[simp] theorem State.wait_r (s : State) (p : Phase) : (s.wait p).r = s.r := rfl
@[simp] theorem State.wait_ar (s : State) (p : Phase) : (s.wait p).ar = s.ar := rfl
@[simp] theorem State.wait_dp (s : State) (p : Phase) : (s.wait p).dp = s.dp := rfl
@[simp] theorem State.wait_ir0 (s : State) (p : Phase) : (s.wait p).ir0 = s.ir0 := rfl
@[simp] theorem State.wait_ir1 (s : State) (p : Phase) : (s.wait p).ir1 = s.ir1 := rfl
@[simp] theorem State.wait_bk (s : State) (p : Phase) : (s.wait p).bk = s.bk := rfl
@[simp] theorem State.wait_sp (s : State) (p : Phase) : (s.wait p).sp = s.sp := rfl
@[simp] theorem State.wait_die (s : State) (p : Phase) : (s.wait p).die = s.die := rfl
@[simp] theorem State.wait_iie (s : State) (p : Phase) : (s.wait p).iie = s.iie := rfl
@[simp] theorem State.wait_iif (s : State) (p : Phase) : (s.wait p).iif = s.iif := rfl
@[simp] theorem State.wait_rs (s : State) (p : Phase) : (s.wait p).rs = s.rs := rfl
@[simp] theorem State.wait_re (s : State) (p : Phase) : (s.wait p).re = s.re := rfl
@[simp] theorem State.wait_rc (s : State) (p : Phase) : (s.wait p).rc = s.rc := rfl
@[simp] theorem State.wait_ivtp (s : State) (p : Phase) : (s.wait p).ivtp = s.ivtp := rfl
@[simp] theorem State.wait_tvtp (s : State) (p : Phase) : (s.wait p).tvtp = s.tvtp := rfl
@[simp] theorem State.wait_pc (s : State) (p : Phase) : (s.wait p).pc = s.pc := rfl
@[simp] theorem State.wait_repeatSingle (s : State) (p : Phase) : (s.wait p).repeatSingle = s.repeatSingle := rfl
@[simp] theorem State.wait_ir (s : State) (p : Phase) : (s.wait p).ir = s.ir := rfl
@[simp] theorem State.wait_irHeld (s : State) (p : Phase) : (s.wait p).irHeld = s.irHeld := rfl
@[simp] theorem State.wait_delay (s : State) (p : Phase) : (s.wait p).delay = s.delay := rfl
@[simp] theorem State.wait_busy (s : State) (p : Phase) : (s.wait p).busy = s.busy := rfl
@[simp] theorem State.wait_entering (s : State) (p : Phase) : (s.wait p).entering = s.entering := rfl
@[simp] theorem State.wait_lockGlobal (s : State) (p : Phase) : (s.wait p).lockGlobal = s.lockGlobal := rfl
@[simp] theorem State.wait_lockLocal (s : State) (p : Phase) : (s.wait p).lockLocal = s.lockLocal := rfl
@[simp] theorem State.wait_iack (s : State) (p : Phase) : (s.wait p).iack = s.iack := rfl
@[simp] theorem State.wait_globalBus (s : State) (p : Phase) : (s.wait p).globalBus = s.globalBus := rfl
@[simp] theorem State.wait_localBus (s : State) (p : Phase) : (s.wait p).localBus = s.localBus := rfl
@[simp] theorem State.wait_cache (s : State) (p : Phase) : (s.wait p).cache = s.cache := rfl
@[simp] theorem State.wait_dev (s : State) (p : Phase) : (s.wait p).dev = s.dev := rfl
@[simp] theorem State.wait_pins (s : State) (p : Phase) : (s.wait p).pins = s.pins := rfl
@[simp] theorem State.wait_board (s : State) (p : Phase) : (s.wait p).board = s.board := rfl
@[simp] theorem State.wait_romImage (s : State) (p : Phase) : (s.wait p).romImage = s.romImage := rfl
@[simp] theorem State.wait_mem (s : State) (p : Phase) : (s.wait p).mem = s.mem := rfl
@[simp] theorem State.wait_nmiLast (s : State) (p : Phase) : (s.wait p).nmiLast = s.nmiLast := rfl
@[simp] theorem State.wait_iiofLast (s : State) (p : Phase) : (s.wait p).iiofLast = s.iiofLast := rfl
@[simp] theorem State.wait_ackPending (s : State) (p : Phase) : (s.wait p).ackPending = s.ackPending := rfl
@[simp] theorem State.wait_levelAck (s : State) (p : Phase) : (s.wait p).levelAck = s.levelAck := rfl
@[simp] theorem State.wait_raisePending (s : State) (p : Phase) : (s.wait p).raisePending = s.raisePending := rfl
@[simp] theorem State.wait_levelRaise (s : State) (p : Phase) : (s.wait p).levelRaise = s.levelRaise := rfl
@[simp] theorem State.wait_claimed (s : State) (p : Phase) : (s.wait p).claimed = s.claimed := rfl
@[simp] theorem State.wait_dmaHeld (s : State) (p : Phase) : (s.wait p).dmaHeld = s.dmaHeld := rfl
@[simp] theorem State.wait_waiting (s : State) (p : Phase) : (s.wait p).waiting = s.waiting := rfl
@[simp] theorem State.wait_early (s : State) (p : Phase) : (s.wait p).early = s.early := rfl
@[simp] theorem State.wait_inputs (s : State) (p : Phase) : (s.wait p).inputs = s.inputs := rfl
@[simp] theorem State.wait_outputs (s : State) (p : Phase) : (s.wait p).outputs = s.outputs := rfl
@[simp] theorem State.wait_draws (s : State) (p : Phase) : (s.wait p).draws = s.draws := rfl

/-! ### saveStatus -/

@[simp] theorem State.saveStatus_r (s : State) : (s.saveStatus).r = s.r := rfl
@[simp] theorem State.saveStatus_ar (s : State) : (s.saveStatus).ar = s.ar := rfl
@[simp] theorem State.saveStatus_dp (s : State) : (s.saveStatus).dp = s.dp := rfl
@[simp] theorem State.saveStatus_ir0 (s : State) : (s.saveStatus).ir0 = s.ir0 := rfl
@[simp] theorem State.saveStatus_ir1 (s : State) : (s.saveStatus).ir1 = s.ir1 := rfl
@[simp] theorem State.saveStatus_bk (s : State) : (s.saveStatus).bk = s.bk := rfl
@[simp] theorem State.saveStatus_sp (s : State) : (s.saveStatus).sp = s.sp := rfl
@[simp] theorem State.saveStatus_die (s : State) : (s.saveStatus).die = s.die := rfl
@[simp] theorem State.saveStatus_iie (s : State) : (s.saveStatus).iie = s.iie := rfl
@[simp] theorem State.saveStatus_iif (s : State) : (s.saveStatus).iif = s.iif := rfl
@[simp] theorem State.saveStatus_rs (s : State) : (s.saveStatus).rs = s.rs := rfl
@[simp] theorem State.saveStatus_re (s : State) : (s.saveStatus).re = s.re := rfl
@[simp] theorem State.saveStatus_rc (s : State) : (s.saveStatus).rc = s.rc := rfl
@[simp] theorem State.saveStatus_ivtp (s : State) : (s.saveStatus).ivtp = s.ivtp := rfl
@[simp] theorem State.saveStatus_tvtp (s : State) : (s.saveStatus).tvtp = s.tvtp := rfl
@[simp] theorem State.saveStatus_pc (s : State) : (s.saveStatus).pc = s.pc := rfl
@[simp] theorem State.saveStatus_repeatSingle (s : State) : (s.saveStatus).repeatSingle = s.repeatSingle := rfl
@[simp] theorem State.saveStatus_ir (s : State) : (s.saveStatus).ir = s.ir := rfl
@[simp] theorem State.saveStatus_irHeld (s : State) : (s.saveStatus).irHeld = s.irHeld := rfl
@[simp] theorem State.saveStatus_delay (s : State) : (s.saveStatus).delay = s.delay := rfl
@[simp] theorem State.saveStatus_busy (s : State) : (s.saveStatus).busy = s.busy := rfl
@[simp] theorem State.saveStatus_phase (s : State) : (s.saveStatus).phase = s.phase := rfl
@[simp] theorem State.saveStatus_entering (s : State) : (s.saveStatus).entering = s.entering := rfl
@[simp] theorem State.saveStatus_lockGlobal (s : State) : (s.saveStatus).lockGlobal = s.lockGlobal := rfl
@[simp] theorem State.saveStatus_lockLocal (s : State) : (s.saveStatus).lockLocal = s.lockLocal := rfl
@[simp] theorem State.saveStatus_iack (s : State) : (s.saveStatus).iack = s.iack := rfl
@[simp] theorem State.saveStatus_globalBus (s : State) : (s.saveStatus).globalBus = s.globalBus := rfl
@[simp] theorem State.saveStatus_localBus (s : State) : (s.saveStatus).localBus = s.localBus := rfl
@[simp] theorem State.saveStatus_cache (s : State) : (s.saveStatus).cache = s.cache := rfl
@[simp] theorem State.saveStatus_dev (s : State) : (s.saveStatus).dev = s.dev := rfl
@[simp] theorem State.saveStatus_pins (s : State) : (s.saveStatus).pins = s.pins := rfl
@[simp] theorem State.saveStatus_board (s : State) : (s.saveStatus).board = s.board := rfl
@[simp] theorem State.saveStatus_romImage (s : State) : (s.saveStatus).romImage = s.romImage := rfl
@[simp] theorem State.saveStatus_mem (s : State) : (s.saveStatus).mem = s.mem := rfl
@[simp] theorem State.saveStatus_nmiLast (s : State) : (s.saveStatus).nmiLast = s.nmiLast := rfl
@[simp] theorem State.saveStatus_iiofLast (s : State) : (s.saveStatus).iiofLast = s.iiofLast := rfl
@[simp] theorem State.saveStatus_ackPending (s : State) : (s.saveStatus).ackPending = s.ackPending := rfl
@[simp] theorem State.saveStatus_levelAck (s : State) : (s.saveStatus).levelAck = s.levelAck := rfl
@[simp] theorem State.saveStatus_raisePending (s : State) : (s.saveStatus).raisePending = s.raisePending := rfl
@[simp] theorem State.saveStatus_levelRaise (s : State) : (s.saveStatus).levelRaise = s.levelRaise := rfl
@[simp] theorem State.saveStatus_claimed (s : State) : (s.saveStatus).claimed = s.claimed := rfl
@[simp] theorem State.saveStatus_dmaHeld (s : State) : (s.saveStatus).dmaHeld = s.dmaHeld := rfl
@[simp] theorem State.saveStatus_waiting (s : State) : (s.saveStatus).waiting = s.waiting := rfl
@[simp] theorem State.saveStatus_early (s : State) : (s.saveStatus).early = s.early := rfl
@[simp] theorem State.saveStatus_inputs (s : State) : (s.saveStatus).inputs = s.inputs := rfl
@[simp] theorem State.saveStatus_outputs (s : State) : (s.saveStatus).outputs = s.outputs := rfl
@[simp] theorem State.saveStatus_draws (s : State) : (s.saveStatus).draws = s.draws := rfl

/-! ### restoreStatus -/

@[simp] theorem State.restoreStatus_r (s : State) : (s.restoreStatus).r = s.r := rfl
@[simp] theorem State.restoreStatus_ar (s : State) : (s.restoreStatus).ar = s.ar := rfl
@[simp] theorem State.restoreStatus_dp (s : State) : (s.restoreStatus).dp = s.dp := rfl
@[simp] theorem State.restoreStatus_ir0 (s : State) : (s.restoreStatus).ir0 = s.ir0 := rfl
@[simp] theorem State.restoreStatus_ir1 (s : State) : (s.restoreStatus).ir1 = s.ir1 := rfl
@[simp] theorem State.restoreStatus_bk (s : State) : (s.restoreStatus).bk = s.bk := rfl
@[simp] theorem State.restoreStatus_sp (s : State) : (s.restoreStatus).sp = s.sp := rfl
@[simp] theorem State.restoreStatus_die (s : State) : (s.restoreStatus).die = s.die := rfl
@[simp] theorem State.restoreStatus_iie (s : State) : (s.restoreStatus).iie = s.iie := rfl
@[simp] theorem State.restoreStatus_iif (s : State) : (s.restoreStatus).iif = s.iif := rfl
@[simp] theorem State.restoreStatus_rs (s : State) : (s.restoreStatus).rs = s.rs := rfl
@[simp] theorem State.restoreStatus_re (s : State) : (s.restoreStatus).re = s.re := rfl
@[simp] theorem State.restoreStatus_rc (s : State) : (s.restoreStatus).rc = s.rc := rfl
@[simp] theorem State.restoreStatus_ivtp (s : State) : (s.restoreStatus).ivtp = s.ivtp := rfl
@[simp] theorem State.restoreStatus_tvtp (s : State) : (s.restoreStatus).tvtp = s.tvtp := rfl
@[simp] theorem State.restoreStatus_pc (s : State) : (s.restoreStatus).pc = s.pc := rfl
@[simp] theorem State.restoreStatus_repeatSingle (s : State) : (s.restoreStatus).repeatSingle = s.repeatSingle := rfl
@[simp] theorem State.restoreStatus_ir (s : State) : (s.restoreStatus).ir = s.ir := rfl
@[simp] theorem State.restoreStatus_irHeld (s : State) : (s.restoreStatus).irHeld = s.irHeld := rfl
@[simp] theorem State.restoreStatus_delay (s : State) : (s.restoreStatus).delay = s.delay := rfl
@[simp] theorem State.restoreStatus_busy (s : State) : (s.restoreStatus).busy = s.busy := rfl
@[simp] theorem State.restoreStatus_phase (s : State) : (s.restoreStatus).phase = s.phase := rfl
@[simp] theorem State.restoreStatus_entering (s : State) : (s.restoreStatus).entering = s.entering := rfl
@[simp] theorem State.restoreStatus_lockGlobal (s : State) : (s.restoreStatus).lockGlobal = s.lockGlobal := rfl
@[simp] theorem State.restoreStatus_lockLocal (s : State) : (s.restoreStatus).lockLocal = s.lockLocal := rfl
@[simp] theorem State.restoreStatus_iack (s : State) : (s.restoreStatus).iack = s.iack := rfl
@[simp] theorem State.restoreStatus_globalBus (s : State) : (s.restoreStatus).globalBus = s.globalBus := rfl
@[simp] theorem State.restoreStatus_localBus (s : State) : (s.restoreStatus).localBus = s.localBus := rfl
@[simp] theorem State.restoreStatus_cache (s : State) : (s.restoreStatus).cache = s.cache := rfl
@[simp] theorem State.restoreStatus_dev (s : State) : (s.restoreStatus).dev = s.dev := rfl
@[simp] theorem State.restoreStatus_pins (s : State) : (s.restoreStatus).pins = s.pins := rfl
@[simp] theorem State.restoreStatus_board (s : State) : (s.restoreStatus).board = s.board := rfl
@[simp] theorem State.restoreStatus_romImage (s : State) : (s.restoreStatus).romImage = s.romImage := rfl
@[simp] theorem State.restoreStatus_mem (s : State) : (s.restoreStatus).mem = s.mem := rfl
@[simp] theorem State.restoreStatus_nmiLast (s : State) : (s.restoreStatus).nmiLast = s.nmiLast := rfl
@[simp] theorem State.restoreStatus_iiofLast (s : State) : (s.restoreStatus).iiofLast = s.iiofLast := rfl
@[simp] theorem State.restoreStatus_ackPending (s : State) : (s.restoreStatus).ackPending = s.ackPending := rfl
@[simp] theorem State.restoreStatus_levelAck (s : State) : (s.restoreStatus).levelAck = s.levelAck := rfl
@[simp] theorem State.restoreStatus_raisePending (s : State) : (s.restoreStatus).raisePending = s.raisePending := rfl
@[simp] theorem State.restoreStatus_levelRaise (s : State) : (s.restoreStatus).levelRaise = s.levelRaise := rfl
@[simp] theorem State.restoreStatus_claimed (s : State) : (s.restoreStatus).claimed = s.claimed := rfl
@[simp] theorem State.restoreStatus_dmaHeld (s : State) : (s.restoreStatus).dmaHeld = s.dmaHeld := rfl
@[simp] theorem State.restoreStatus_waiting (s : State) : (s.restoreStatus).waiting = s.waiting := rfl
@[simp] theorem State.restoreStatus_early (s : State) : (s.restoreStatus).early = s.early := rfl
@[simp] theorem State.restoreStatus_inputs (s : State) : (s.restoreStatus).inputs = s.inputs := rfl
@[simp] theorem State.restoreStatus_outputs (s : State) : (s.restoreStatus).outputs = s.outputs := rfl
@[simp] theorem State.restoreStatus_draws (s : State) : (s.restoreStatus).draws = s.draws := rfl

/-! ### setLock -/

@[simp] theorem State.setLock_r (s : State) (a : Word) (b : Bool) : (s.setLock a b).r = s.r :=
  by unfold State.setLock; (repeat' split) <;> rfl
@[simp] theorem State.setLock_ar (s : State) (a : Word) (b : Bool) : (s.setLock a b).ar = s.ar :=
  by unfold State.setLock; (repeat' split) <;> rfl
@[simp] theorem State.setLock_dp (s : State) (a : Word) (b : Bool) : (s.setLock a b).dp = s.dp :=
  by unfold State.setLock; (repeat' split) <;> rfl
@[simp] theorem State.setLock_ir0 (s : State) (a : Word) (b : Bool) : (s.setLock a b).ir0 = s.ir0 :=
  by unfold State.setLock; (repeat' split) <;> rfl
@[simp] theorem State.setLock_ir1 (s : State) (a : Word) (b : Bool) : (s.setLock a b).ir1 = s.ir1 :=
  by unfold State.setLock; (repeat' split) <;> rfl
@[simp] theorem State.setLock_bk (s : State) (a : Word) (b : Bool) : (s.setLock a b).bk = s.bk :=
  by unfold State.setLock; (repeat' split) <;> rfl
@[simp] theorem State.setLock_sp (s : State) (a : Word) (b : Bool) : (s.setLock a b).sp = s.sp :=
  by unfold State.setLock; (repeat' split) <;> rfl
@[simp] theorem State.setLock_st (s : State) (a : Word) (b : Bool) : (s.setLock a b).st = s.st :=
  by unfold State.setLock; (repeat' split) <;> rfl
@[simp] theorem State.setLock_die (s : State) (a : Word) (b : Bool) : (s.setLock a b).die = s.die :=
  by unfold State.setLock; (repeat' split) <;> rfl
@[simp] theorem State.setLock_iie (s : State) (a : Word) (b : Bool) : (s.setLock a b).iie = s.iie :=
  by unfold State.setLock; (repeat' split) <;> rfl
@[simp] theorem State.setLock_iif (s : State) (a : Word) (b : Bool) : (s.setLock a b).iif = s.iif :=
  by unfold State.setLock; (repeat' split) <;> rfl
@[simp] theorem State.setLock_rs (s : State) (a : Word) (b : Bool) : (s.setLock a b).rs = s.rs :=
  by unfold State.setLock; (repeat' split) <;> rfl
@[simp] theorem State.setLock_re (s : State) (a : Word) (b : Bool) : (s.setLock a b).re = s.re :=
  by unfold State.setLock; (repeat' split) <;> rfl
@[simp] theorem State.setLock_rc (s : State) (a : Word) (b : Bool) : (s.setLock a b).rc = s.rc :=
  by unfold State.setLock; (repeat' split) <;> rfl
@[simp] theorem State.setLock_ivtp (s : State) (a : Word) (b : Bool) : (s.setLock a b).ivtp = s.ivtp :=
  by unfold State.setLock; (repeat' split) <;> rfl
@[simp] theorem State.setLock_tvtp (s : State) (a : Word) (b : Bool) : (s.setLock a b).tvtp = s.tvtp :=
  by unfold State.setLock; (repeat' split) <;> rfl
@[simp] theorem State.setLock_pc (s : State) (a : Word) (b : Bool) : (s.setLock a b).pc = s.pc :=
  by unfold State.setLock; (repeat' split) <;> rfl
@[simp] theorem State.setLock_repeatSingle (s : State) (a : Word) (b : Bool) : (s.setLock a b).repeatSingle = s.repeatSingle :=
  by unfold State.setLock; (repeat' split) <;> rfl
@[simp] theorem State.setLock_ir (s : State) (a : Word) (b : Bool) : (s.setLock a b).ir = s.ir :=
  by unfold State.setLock; (repeat' split) <;> rfl
@[simp] theorem State.setLock_irHeld (s : State) (a : Word) (b : Bool) : (s.setLock a b).irHeld = s.irHeld :=
  by unfold State.setLock; (repeat' split) <;> rfl
@[simp] theorem State.setLock_delay (s : State) (a : Word) (b : Bool) : (s.setLock a b).delay = s.delay :=
  by unfold State.setLock; (repeat' split) <;> rfl
@[simp] theorem State.setLock_busy (s : State) (a : Word) (b : Bool) : (s.setLock a b).busy = s.busy :=
  by unfold State.setLock; (repeat' split) <;> rfl
@[simp] theorem State.setLock_phase (s : State) (a : Word) (b : Bool) : (s.setLock a b).phase = s.phase :=
  by unfold State.setLock; (repeat' split) <;> rfl
@[simp] theorem State.setLock_entering (s : State) (a : Word) (b : Bool) : (s.setLock a b).entering = s.entering :=
  by unfold State.setLock; (repeat' split) <;> rfl
@[simp] theorem State.setLock_iack (s : State) (a : Word) (b : Bool) : (s.setLock a b).iack = s.iack :=
  by unfold State.setLock; (repeat' split) <;> rfl
@[simp] theorem State.setLock_globalBus (s : State) (a : Word) (b : Bool) : (s.setLock a b).globalBus = s.globalBus :=
  by unfold State.setLock; (repeat' split) <;> rfl
@[simp] theorem State.setLock_localBus (s : State) (a : Word) (b : Bool) : (s.setLock a b).localBus = s.localBus :=
  by unfold State.setLock; (repeat' split) <;> rfl
@[simp] theorem State.setLock_cache (s : State) (a : Word) (b : Bool) : (s.setLock a b).cache = s.cache :=
  by unfold State.setLock; (repeat' split) <;> rfl
@[simp] theorem State.setLock_dev (s : State) (a : Word) (b : Bool) : (s.setLock a b).dev = s.dev :=
  by unfold State.setLock; (repeat' split) <;> rfl
@[simp] theorem State.setLock_pins (s : State) (a : Word) (b : Bool) : (s.setLock a b).pins = s.pins :=
  by unfold State.setLock; (repeat' split) <;> rfl
@[simp] theorem State.setLock_board (s : State) (a : Word) (b : Bool) : (s.setLock a b).board = s.board :=
  by unfold State.setLock; (repeat' split) <;> rfl
@[simp] theorem State.setLock_romImage (s : State) (a : Word) (b : Bool) : (s.setLock a b).romImage = s.romImage :=
  by unfold State.setLock; (repeat' split) <;> rfl
@[simp] theorem State.setLock_mem (s : State) (a : Word) (b : Bool) : (s.setLock a b).mem = s.mem :=
  by unfold State.setLock; (repeat' split) <;> rfl
@[simp] theorem State.setLock_nmiLast (s : State) (a : Word) (b : Bool) : (s.setLock a b).nmiLast = s.nmiLast :=
  by unfold State.setLock; (repeat' split) <;> rfl
@[simp] theorem State.setLock_iiofLast (s : State) (a : Word) (b : Bool) : (s.setLock a b).iiofLast = s.iiofLast :=
  by unfold State.setLock; (repeat' split) <;> rfl
@[simp] theorem State.setLock_ackPending (s : State) (a : Word) (b : Bool) : (s.setLock a b).ackPending = s.ackPending :=
  by unfold State.setLock; (repeat' split) <;> rfl
@[simp] theorem State.setLock_levelAck (s : State) (a : Word) (b : Bool) : (s.setLock a b).levelAck = s.levelAck :=
  by unfold State.setLock; (repeat' split) <;> rfl
@[simp] theorem State.setLock_raisePending (s : State) (a : Word) (b : Bool) : (s.setLock a b).raisePending = s.raisePending :=
  by unfold State.setLock; (repeat' split) <;> rfl
@[simp] theorem State.setLock_levelRaise (s : State) (a : Word) (b : Bool) : (s.setLock a b).levelRaise = s.levelRaise :=
  by unfold State.setLock; (repeat' split) <;> rfl
@[simp] theorem State.setLock_claimed (s : State) (a : Word) (b : Bool) : (s.setLock a b).claimed = s.claimed :=
  by unfold State.setLock; (repeat' split) <;> rfl
@[simp] theorem State.setLock_dmaHeld (s : State) (a : Word) (b : Bool) : (s.setLock a b).dmaHeld = s.dmaHeld :=
  by unfold State.setLock; (repeat' split) <;> rfl
@[simp] theorem State.setLock_waiting (s : State) (a : Word) (b : Bool) : (s.setLock a b).waiting = s.waiting :=
  by unfold State.setLock; (repeat' split) <;> rfl
@[simp] theorem State.setLock_early (s : State) (a : Word) (b : Bool) : (s.setLock a b).early = s.early :=
  by unfold State.setLock; (repeat' split) <;> rfl
@[simp] theorem State.setLock_inputs (s : State) (a : Word) (b : Bool) : (s.setLock a b).inputs = s.inputs :=
  by unfold State.setLock; (repeat' split) <;> rfl
@[simp] theorem State.setLock_draws (s : State) (a : Word) (b : Bool) : (s.setLock a b).draws = s.draws :=
  by unfold State.setLock; (repeat' split) <;> rfl

/-! ### iackFall -/

@[simp] theorem State.iackFall_r (s : State) (a : Word) : (s.iackFall a).r = s.r :=
  by unfold State.iackFall; split <;> rfl
@[simp] theorem State.iackFall_ar (s : State) (a : Word) : (s.iackFall a).ar = s.ar :=
  by unfold State.iackFall; split <;> rfl
@[simp] theorem State.iackFall_dp (s : State) (a : Word) : (s.iackFall a).dp = s.dp :=
  by unfold State.iackFall; split <;> rfl
@[simp] theorem State.iackFall_ir0 (s : State) (a : Word) : (s.iackFall a).ir0 = s.ir0 :=
  by unfold State.iackFall; split <;> rfl
@[simp] theorem State.iackFall_ir1 (s : State) (a : Word) : (s.iackFall a).ir1 = s.ir1 :=
  by unfold State.iackFall; split <;> rfl
@[simp] theorem State.iackFall_bk (s : State) (a : Word) : (s.iackFall a).bk = s.bk :=
  by unfold State.iackFall; split <;> rfl
@[simp] theorem State.iackFall_sp (s : State) (a : Word) : (s.iackFall a).sp = s.sp :=
  by unfold State.iackFall; split <;> rfl
@[simp] theorem State.iackFall_st (s : State) (a : Word) : (s.iackFall a).st = s.st :=
  by unfold State.iackFall; split <;> rfl
@[simp] theorem State.iackFall_die (s : State) (a : Word) : (s.iackFall a).die = s.die :=
  by unfold State.iackFall; split <;> rfl
@[simp] theorem State.iackFall_iie (s : State) (a : Word) : (s.iackFall a).iie = s.iie :=
  by unfold State.iackFall; split <;> rfl
@[simp] theorem State.iackFall_iif (s : State) (a : Word) : (s.iackFall a).iif = s.iif :=
  by unfold State.iackFall; split <;> rfl
@[simp] theorem State.iackFall_rs (s : State) (a : Word) : (s.iackFall a).rs = s.rs :=
  by unfold State.iackFall; split <;> rfl
@[simp] theorem State.iackFall_re (s : State) (a : Word) : (s.iackFall a).re = s.re :=
  by unfold State.iackFall; split <;> rfl
@[simp] theorem State.iackFall_rc (s : State) (a : Word) : (s.iackFall a).rc = s.rc :=
  by unfold State.iackFall; split <;> rfl
@[simp] theorem State.iackFall_ivtp (s : State) (a : Word) : (s.iackFall a).ivtp = s.ivtp :=
  by unfold State.iackFall; split <;> rfl
@[simp] theorem State.iackFall_tvtp (s : State) (a : Word) : (s.iackFall a).tvtp = s.tvtp :=
  by unfold State.iackFall; split <;> rfl
@[simp] theorem State.iackFall_pc (s : State) (a : Word) : (s.iackFall a).pc = s.pc :=
  by unfold State.iackFall; split <;> rfl
@[simp] theorem State.iackFall_repeatSingle (s : State) (a : Word) : (s.iackFall a).repeatSingle = s.repeatSingle :=
  by unfold State.iackFall; split <;> rfl
@[simp] theorem State.iackFall_ir (s : State) (a : Word) : (s.iackFall a).ir = s.ir :=
  by unfold State.iackFall; split <;> rfl
@[simp] theorem State.iackFall_irHeld (s : State) (a : Word) : (s.iackFall a).irHeld = s.irHeld :=
  by unfold State.iackFall; split <;> rfl
@[simp] theorem State.iackFall_delay (s : State) (a : Word) : (s.iackFall a).delay = s.delay :=
  by unfold State.iackFall; split <;> rfl
@[simp] theorem State.iackFall_busy (s : State) (a : Word) : (s.iackFall a).busy = s.busy :=
  by unfold State.iackFall; split <;> rfl
@[simp] theorem State.iackFall_phase (s : State) (a : Word) : (s.iackFall a).phase = s.phase :=
  by unfold State.iackFall; split <;> rfl
@[simp] theorem State.iackFall_entering (s : State) (a : Word) : (s.iackFall a).entering = s.entering :=
  by unfold State.iackFall; split <;> rfl
@[simp] theorem State.iackFall_lockGlobal (s : State) (a : Word) : (s.iackFall a).lockGlobal = s.lockGlobal :=
  by unfold State.iackFall; split <;> rfl
@[simp] theorem State.iackFall_lockLocal (s : State) (a : Word) : (s.iackFall a).lockLocal = s.lockLocal :=
  by unfold State.iackFall; split <;> rfl
@[simp] theorem State.iackFall_globalBus (s : State) (a : Word) : (s.iackFall a).globalBus = s.globalBus :=
  by unfold State.iackFall; split <;> rfl
@[simp] theorem State.iackFall_localBus (s : State) (a : Word) : (s.iackFall a).localBus = s.localBus :=
  by unfold State.iackFall; split <;> rfl
@[simp] theorem State.iackFall_cache (s : State) (a : Word) : (s.iackFall a).cache = s.cache :=
  by unfold State.iackFall; split <;> rfl
@[simp] theorem State.iackFall_dev (s : State) (a : Word) : (s.iackFall a).dev = s.dev :=
  by unfold State.iackFall; split <;> rfl
@[simp] theorem State.iackFall_pins (s : State) (a : Word) : (s.iackFall a).pins = s.pins :=
  by unfold State.iackFall; split <;> rfl
@[simp] theorem State.iackFall_board (s : State) (a : Word) : (s.iackFall a).board = s.board :=
  by unfold State.iackFall; split <;> rfl
@[simp] theorem State.iackFall_romImage (s : State) (a : Word) : (s.iackFall a).romImage = s.romImage :=
  by unfold State.iackFall; split <;> rfl
@[simp] theorem State.iackFall_mem (s : State) (a : Word) : (s.iackFall a).mem = s.mem :=
  by unfold State.iackFall; split <;> rfl
@[simp] theorem State.iackFall_nmiLast (s : State) (a : Word) : (s.iackFall a).nmiLast = s.nmiLast :=
  by unfold State.iackFall; split <;> rfl
@[simp] theorem State.iackFall_iiofLast (s : State) (a : Word) : (s.iackFall a).iiofLast = s.iiofLast :=
  by unfold State.iackFall; split <;> rfl
@[simp] theorem State.iackFall_ackPending (s : State) (a : Word) : (s.iackFall a).ackPending = s.ackPending :=
  by unfold State.iackFall; split <;> rfl
@[simp] theorem State.iackFall_levelAck (s : State) (a : Word) : (s.iackFall a).levelAck = s.levelAck :=
  by unfold State.iackFall; split <;> rfl
@[simp] theorem State.iackFall_raisePending (s : State) (a : Word) : (s.iackFall a).raisePending = s.raisePending :=
  by unfold State.iackFall; split <;> rfl
@[simp] theorem State.iackFall_levelRaise (s : State) (a : Word) : (s.iackFall a).levelRaise = s.levelRaise :=
  by unfold State.iackFall; split <;> rfl
@[simp] theorem State.iackFall_claimed (s : State) (a : Word) : (s.iackFall a).claimed = s.claimed :=
  by unfold State.iackFall; split <;> rfl
@[simp] theorem State.iackFall_dmaHeld (s : State) (a : Word) : (s.iackFall a).dmaHeld = s.dmaHeld :=
  by unfold State.iackFall; split <;> rfl
@[simp] theorem State.iackFall_waiting (s : State) (a : Word) : (s.iackFall a).waiting = s.waiting :=
  by unfold State.iackFall; split <;> rfl
@[simp] theorem State.iackFall_early (s : State) (a : Word) : (s.iackFall a).early = s.early :=
  by unfold State.iackFall; split <;> rfl
@[simp] theorem State.iackFall_inputs (s : State) (a : Word) : (s.iackFall a).inputs = s.inputs :=
  by unfold State.iackFall; split <;> rfl
@[simp] theorem State.iackFall_outputs (s : State) (a : Word) : (s.iackFall a).outputs = s.outputs :=
  by unfold State.iackFall; split <;> rfl
@[simp] theorem State.iackFall_draws (s : State) (a : Word) : (s.iackFall a).draws = s.draws :=
  by unfold State.iackFall; split <;> rfl

/-! ### iackRise -/

@[simp] theorem State.iackRise_r (s : State) (a : Word) : (s.iackRise a).r = s.r :=
  by unfold State.iackRise; split <;> rfl
@[simp] theorem State.iackRise_ar (s : State) (a : Word) : (s.iackRise a).ar = s.ar :=
  by unfold State.iackRise; split <;> rfl
@[simp] theorem State.iackRise_dp (s : State) (a : Word) : (s.iackRise a).dp = s.dp :=
  by unfold State.iackRise; split <;> rfl
@[simp] theorem State.iackRise_ir0 (s : State) (a : Word) : (s.iackRise a).ir0 = s.ir0 :=
  by unfold State.iackRise; split <;> rfl
@[simp] theorem State.iackRise_ir1 (s : State) (a : Word) : (s.iackRise a).ir1 = s.ir1 :=
  by unfold State.iackRise; split <;> rfl
@[simp] theorem State.iackRise_bk (s : State) (a : Word) : (s.iackRise a).bk = s.bk :=
  by unfold State.iackRise; split <;> rfl
@[simp] theorem State.iackRise_sp (s : State) (a : Word) : (s.iackRise a).sp = s.sp :=
  by unfold State.iackRise; split <;> rfl
@[simp] theorem State.iackRise_st (s : State) (a : Word) : (s.iackRise a).st = s.st :=
  by unfold State.iackRise; split <;> rfl
@[simp] theorem State.iackRise_die (s : State) (a : Word) : (s.iackRise a).die = s.die :=
  by unfold State.iackRise; split <;> rfl
@[simp] theorem State.iackRise_iie (s : State) (a : Word) : (s.iackRise a).iie = s.iie :=
  by unfold State.iackRise; split <;> rfl
@[simp] theorem State.iackRise_iif (s : State) (a : Word) : (s.iackRise a).iif = s.iif :=
  by unfold State.iackRise; split <;> rfl
@[simp] theorem State.iackRise_rs (s : State) (a : Word) : (s.iackRise a).rs = s.rs :=
  by unfold State.iackRise; split <;> rfl
@[simp] theorem State.iackRise_re (s : State) (a : Word) : (s.iackRise a).re = s.re :=
  by unfold State.iackRise; split <;> rfl
@[simp] theorem State.iackRise_rc (s : State) (a : Word) : (s.iackRise a).rc = s.rc :=
  by unfold State.iackRise; split <;> rfl
@[simp] theorem State.iackRise_ivtp (s : State) (a : Word) : (s.iackRise a).ivtp = s.ivtp :=
  by unfold State.iackRise; split <;> rfl
@[simp] theorem State.iackRise_tvtp (s : State) (a : Word) : (s.iackRise a).tvtp = s.tvtp :=
  by unfold State.iackRise; split <;> rfl
@[simp] theorem State.iackRise_pc (s : State) (a : Word) : (s.iackRise a).pc = s.pc :=
  by unfold State.iackRise; split <;> rfl
@[simp] theorem State.iackRise_repeatSingle (s : State) (a : Word) : (s.iackRise a).repeatSingle = s.repeatSingle :=
  by unfold State.iackRise; split <;> rfl
@[simp] theorem State.iackRise_ir (s : State) (a : Word) : (s.iackRise a).ir = s.ir :=
  by unfold State.iackRise; split <;> rfl
@[simp] theorem State.iackRise_irHeld (s : State) (a : Word) : (s.iackRise a).irHeld = s.irHeld :=
  by unfold State.iackRise; split <;> rfl
@[simp] theorem State.iackRise_delay (s : State) (a : Word) : (s.iackRise a).delay = s.delay :=
  by unfold State.iackRise; split <;> rfl
@[simp] theorem State.iackRise_busy (s : State) (a : Word) : (s.iackRise a).busy = s.busy :=
  by unfold State.iackRise; split <;> rfl
@[simp] theorem State.iackRise_phase (s : State) (a : Word) : (s.iackRise a).phase = s.phase :=
  by unfold State.iackRise; split <;> rfl
@[simp] theorem State.iackRise_entering (s : State) (a : Word) : (s.iackRise a).entering = s.entering :=
  by unfold State.iackRise; split <;> rfl
@[simp] theorem State.iackRise_lockGlobal (s : State) (a : Word) : (s.iackRise a).lockGlobal = s.lockGlobal :=
  by unfold State.iackRise; split <;> rfl
@[simp] theorem State.iackRise_lockLocal (s : State) (a : Word) : (s.iackRise a).lockLocal = s.lockLocal :=
  by unfold State.iackRise; split <;> rfl
@[simp] theorem State.iackRise_globalBus (s : State) (a : Word) : (s.iackRise a).globalBus = s.globalBus :=
  by unfold State.iackRise; split <;> rfl
@[simp] theorem State.iackRise_localBus (s : State) (a : Word) : (s.iackRise a).localBus = s.localBus :=
  by unfold State.iackRise; split <;> rfl
@[simp] theorem State.iackRise_cache (s : State) (a : Word) : (s.iackRise a).cache = s.cache :=
  by unfold State.iackRise; split <;> rfl
@[simp] theorem State.iackRise_dev (s : State) (a : Word) : (s.iackRise a).dev = s.dev :=
  by unfold State.iackRise; split <;> rfl
@[simp] theorem State.iackRise_pins (s : State) (a : Word) : (s.iackRise a).pins = s.pins :=
  by unfold State.iackRise; split <;> rfl
@[simp] theorem State.iackRise_board (s : State) (a : Word) : (s.iackRise a).board = s.board :=
  by unfold State.iackRise; split <;> rfl
@[simp] theorem State.iackRise_romImage (s : State) (a : Word) : (s.iackRise a).romImage = s.romImage :=
  by unfold State.iackRise; split <;> rfl
@[simp] theorem State.iackRise_mem (s : State) (a : Word) : (s.iackRise a).mem = s.mem :=
  by unfold State.iackRise; split <;> rfl
@[simp] theorem State.iackRise_nmiLast (s : State) (a : Word) : (s.iackRise a).nmiLast = s.nmiLast :=
  by unfold State.iackRise; split <;> rfl
@[simp] theorem State.iackRise_iiofLast (s : State) (a : Word) : (s.iackRise a).iiofLast = s.iiofLast :=
  by unfold State.iackRise; split <;> rfl
@[simp] theorem State.iackRise_ackPending (s : State) (a : Word) : (s.iackRise a).ackPending = s.ackPending :=
  by unfold State.iackRise; split <;> rfl
@[simp] theorem State.iackRise_levelAck (s : State) (a : Word) : (s.iackRise a).levelAck = s.levelAck :=
  by unfold State.iackRise; split <;> rfl
@[simp] theorem State.iackRise_raisePending (s : State) (a : Word) : (s.iackRise a).raisePending = s.raisePending :=
  by unfold State.iackRise; split <;> rfl
@[simp] theorem State.iackRise_levelRaise (s : State) (a : Word) : (s.iackRise a).levelRaise = s.levelRaise :=
  by unfold State.iackRise; split <;> rfl
@[simp] theorem State.iackRise_claimed (s : State) (a : Word) : (s.iackRise a).claimed = s.claimed :=
  by unfold State.iackRise; split <;> rfl
@[simp] theorem State.iackRise_dmaHeld (s : State) (a : Word) : (s.iackRise a).dmaHeld = s.dmaHeld :=
  by unfold State.iackRise; split <;> rfl
@[simp] theorem State.iackRise_waiting (s : State) (a : Word) : (s.iackRise a).waiting = s.waiting :=
  by unfold State.iackRise; split <;> rfl
@[simp] theorem State.iackRise_early (s : State) (a : Word) : (s.iackRise a).early = s.early :=
  by unfold State.iackRise; split <;> rfl
@[simp] theorem State.iackRise_inputs (s : State) (a : Word) : (s.iackRise a).inputs = s.inputs :=
  by unfold State.iackRise; split <;> rfl
@[simp] theorem State.iackRise_draws (s : State) (a : Word) : (s.iackRise a).draws = s.draws :=
  by unfold State.iackRise; split <;> rfl

/-! ### cycled -/

@[simp] theorem State.cycled_r (s : State) (c : BusCycle) : (s.cycled c).r = s.r :=
  by unfold State.cycled; split <;> rfl
@[simp] theorem State.cycled_ar (s : State) (c : BusCycle) : (s.cycled c).ar = s.ar :=
  by unfold State.cycled; split <;> rfl
@[simp] theorem State.cycled_dp (s : State) (c : BusCycle) : (s.cycled c).dp = s.dp :=
  by unfold State.cycled; split <;> rfl
@[simp] theorem State.cycled_ir0 (s : State) (c : BusCycle) : (s.cycled c).ir0 = s.ir0 :=
  by unfold State.cycled; split <;> rfl
@[simp] theorem State.cycled_ir1 (s : State) (c : BusCycle) : (s.cycled c).ir1 = s.ir1 :=
  by unfold State.cycled; split <;> rfl
@[simp] theorem State.cycled_bk (s : State) (c : BusCycle) : (s.cycled c).bk = s.bk :=
  by unfold State.cycled; split <;> rfl
@[simp] theorem State.cycled_sp (s : State) (c : BusCycle) : (s.cycled c).sp = s.sp :=
  by unfold State.cycled; split <;> rfl
@[simp] theorem State.cycled_st (s : State) (c : BusCycle) : (s.cycled c).st = s.st :=
  by unfold State.cycled; split <;> rfl
@[simp] theorem State.cycled_die (s : State) (c : BusCycle) : (s.cycled c).die = s.die :=
  by unfold State.cycled; split <;> rfl
@[simp] theorem State.cycled_iie (s : State) (c : BusCycle) : (s.cycled c).iie = s.iie :=
  by unfold State.cycled; split <;> rfl
@[simp] theorem State.cycled_iif (s : State) (c : BusCycle) : (s.cycled c).iif = s.iif :=
  by unfold State.cycled; split <;> rfl
@[simp] theorem State.cycled_rs (s : State) (c : BusCycle) : (s.cycled c).rs = s.rs :=
  by unfold State.cycled; split <;> rfl
@[simp] theorem State.cycled_re (s : State) (c : BusCycle) : (s.cycled c).re = s.re :=
  by unfold State.cycled; split <;> rfl
@[simp] theorem State.cycled_rc (s : State) (c : BusCycle) : (s.cycled c).rc = s.rc :=
  by unfold State.cycled; split <;> rfl
@[simp] theorem State.cycled_ivtp (s : State) (c : BusCycle) : (s.cycled c).ivtp = s.ivtp :=
  by unfold State.cycled; split <;> rfl
@[simp] theorem State.cycled_tvtp (s : State) (c : BusCycle) : (s.cycled c).tvtp = s.tvtp :=
  by unfold State.cycled; split <;> rfl
@[simp] theorem State.cycled_pc (s : State) (c : BusCycle) : (s.cycled c).pc = s.pc :=
  by unfold State.cycled; split <;> rfl
@[simp] theorem State.cycled_repeatSingle (s : State) (c : BusCycle) : (s.cycled c).repeatSingle = s.repeatSingle :=
  by unfold State.cycled; split <;> rfl
@[simp] theorem State.cycled_ir (s : State) (c : BusCycle) : (s.cycled c).ir = s.ir :=
  by unfold State.cycled; split <;> rfl
@[simp] theorem State.cycled_irHeld (s : State) (c : BusCycle) : (s.cycled c).irHeld = s.irHeld :=
  by unfold State.cycled; split <;> rfl
@[simp] theorem State.cycled_delay (s : State) (c : BusCycle) : (s.cycled c).delay = s.delay :=
  by unfold State.cycled; split <;> rfl
@[simp] theorem State.cycled_busy (s : State) (c : BusCycle) : (s.cycled c).busy = s.busy :=
  by unfold State.cycled; split <;> rfl
@[simp] theorem State.cycled_phase (s : State) (c : BusCycle) : (s.cycled c).phase = s.phase :=
  by unfold State.cycled; split <;> rfl
@[simp] theorem State.cycled_entering (s : State) (c : BusCycle) : (s.cycled c).entering = s.entering :=
  by unfold State.cycled; split <;> rfl
@[simp] theorem State.cycled_lockGlobal (s : State) (c : BusCycle) : (s.cycled c).lockGlobal = s.lockGlobal :=
  by unfold State.cycled; split <;> rfl
@[simp] theorem State.cycled_lockLocal (s : State) (c : BusCycle) : (s.cycled c).lockLocal = s.lockLocal :=
  by unfold State.cycled; split <;> rfl
@[simp] theorem State.cycled_iack (s : State) (c : BusCycle) : (s.cycled c).iack = s.iack :=
  by unfold State.cycled; split <;> rfl
@[simp] theorem State.cycled_cache (s : State) (c : BusCycle) : (s.cycled c).cache = s.cache :=
  by unfold State.cycled; split <;> rfl
@[simp] theorem State.cycled_dev (s : State) (c : BusCycle) : (s.cycled c).dev = s.dev :=
  by unfold State.cycled; split <;> rfl
@[simp] theorem State.cycled_pins (s : State) (c : BusCycle) : (s.cycled c).pins = s.pins :=
  by unfold State.cycled; split <;> rfl
@[simp] theorem State.cycled_board (s : State) (c : BusCycle) : (s.cycled c).board = s.board :=
  by unfold State.cycled; split <;> rfl
@[simp] theorem State.cycled_romImage (s : State) (c : BusCycle) : (s.cycled c).romImage = s.romImage :=
  by unfold State.cycled; split <;> rfl
@[simp] theorem State.cycled_mem (s : State) (c : BusCycle) : (s.cycled c).mem = s.mem :=
  by unfold State.cycled; split <;> rfl
@[simp] theorem State.cycled_nmiLast (s : State) (c : BusCycle) : (s.cycled c).nmiLast = s.nmiLast :=
  by unfold State.cycled; split <;> rfl
@[simp] theorem State.cycled_iiofLast (s : State) (c : BusCycle) : (s.cycled c).iiofLast = s.iiofLast :=
  by unfold State.cycled; split <;> rfl
@[simp] theorem State.cycled_ackPending (s : State) (c : BusCycle) : (s.cycled c).ackPending = s.ackPending :=
  by unfold State.cycled; split <;> rfl
@[simp] theorem State.cycled_levelAck (s : State) (c : BusCycle) : (s.cycled c).levelAck = s.levelAck :=
  by unfold State.cycled; split <;> rfl
@[simp] theorem State.cycled_raisePending (s : State) (c : BusCycle) : (s.cycled c).raisePending = s.raisePending :=
  by unfold State.cycled; split <;> rfl
@[simp] theorem State.cycled_levelRaise (s : State) (c : BusCycle) : (s.cycled c).levelRaise = s.levelRaise :=
  by unfold State.cycled; split <;> rfl
@[simp] theorem State.cycled_claimed (s : State) (c : BusCycle) : (s.cycled c).claimed = s.claimed :=
  by unfold State.cycled; split <;> rfl
@[simp] theorem State.cycled_dmaHeld (s : State) (c : BusCycle) : (s.cycled c).dmaHeld = s.dmaHeld :=
  by unfold State.cycled; split <;> rfl
@[simp] theorem State.cycled_waiting (s : State) (c : BusCycle) : (s.cycled c).waiting = s.waiting :=
  by unfold State.cycled; split <;> rfl
@[simp] theorem State.cycled_early (s : State) (c : BusCycle) : (s.cycled c).early = s.early :=
  by unfold State.cycled; split <;> rfl
@[simp] theorem State.cycled_inputs (s : State) (c : BusCycle) : (s.cycled c).inputs = s.inputs :=
  by unfold State.cycled; split <;> rfl
@[simp] theorem State.cycled_draws (s : State) (c : BusCycle) : (s.cycled c).draws = s.draws :=
  by unfold State.cycled; split <;> rfl

/-! ### sequenced -/

/-- Sequencing changes the program counter, the repeat logic, the delay slots and the model's own bookkeeping, and of ST
only RM, which it can only clear. -/
theorem State.sequenced_shape (s : State) : ∃ pc rc st single held delay,
    s.sequenced = { s with pc := pc, rc := rc, st := st, repeatSingle := single, irHeld := held, delay := delay,
                           waiting := none, draws := s.draws + 1 }
      ∧ (st = s.st ∨ (s.repeatMode = true ∧ st = putBit s.st 8 false)) := by
  unfold State.sequenced
  dsimp only
  split
  · unfold State.advance
    split
    · rename_i h
      split
      · unfold State.advanceSingle
        dsimp only
        split
        · exact ⟨_, _, _, _, _, _, rfl, .inr ⟨h, rfl⟩⟩
        · exact ⟨_, _, _, _, _, _, rfl, .inl rfl⟩
      · split
        · unfold State.advanceBlock
          dsimp only
          split
          · exact ⟨_, _, _, _, _, _, rfl, .inr ⟨h, rfl⟩⟩
          · exact ⟨_, _, _, _, _, _, rfl, .inl rfl⟩
        · exact ⟨_, _, _, _, _, _, rfl, .inl rfl⟩
    · exact ⟨_, _, _, _, _, _, rfl, .inl rfl⟩
  · unfold State.advanceSlot
    split <;> exact ⟨_, _, _, _, _, _, rfl, .inl rfl⟩

@[simp] theorem State.sequenced_r (s : State) : (s.sequenced).r = s.r := by
  obtain ⟨_, _, _, _, _, _, h, _⟩ := s.sequenced_shape; rw [h]
@[simp] theorem State.sequenced_ar (s : State) : (s.sequenced).ar = s.ar := by
  obtain ⟨_, _, _, _, _, _, h, _⟩ := s.sequenced_shape; rw [h]
@[simp] theorem State.sequenced_dp (s : State) : (s.sequenced).dp = s.dp := by
  obtain ⟨_, _, _, _, _, _, h, _⟩ := s.sequenced_shape; rw [h]
@[simp] theorem State.sequenced_ir0 (s : State) : (s.sequenced).ir0 = s.ir0 := by
  obtain ⟨_, _, _, _, _, _, h, _⟩ := s.sequenced_shape; rw [h]
@[simp] theorem State.sequenced_ir1 (s : State) : (s.sequenced).ir1 = s.ir1 := by
  obtain ⟨_, _, _, _, _, _, h, _⟩ := s.sequenced_shape; rw [h]
@[simp] theorem State.sequenced_bk (s : State) : (s.sequenced).bk = s.bk := by
  obtain ⟨_, _, _, _, _, _, h, _⟩ := s.sequenced_shape; rw [h]
@[simp] theorem State.sequenced_sp (s : State) : (s.sequenced).sp = s.sp := by
  obtain ⟨_, _, _, _, _, _, h, _⟩ := s.sequenced_shape; rw [h]
@[simp] theorem State.sequenced_die (s : State) : (s.sequenced).die = s.die := by
  obtain ⟨_, _, _, _, _, _, h, _⟩ := s.sequenced_shape; rw [h]
@[simp] theorem State.sequenced_iie (s : State) : (s.sequenced).iie = s.iie := by
  obtain ⟨_, _, _, _, _, _, h, _⟩ := s.sequenced_shape; rw [h]
@[simp] theorem State.sequenced_iif (s : State) : (s.sequenced).iif = s.iif := by
  obtain ⟨_, _, _, _, _, _, h, _⟩ := s.sequenced_shape; rw [h]
@[simp] theorem State.sequenced_rs (s : State) : (s.sequenced).rs = s.rs := by
  obtain ⟨_, _, _, _, _, _, h, _⟩ := s.sequenced_shape; rw [h]
@[simp] theorem State.sequenced_re (s : State) : (s.sequenced).re = s.re := by
  obtain ⟨_, _, _, _, _, _, h, _⟩ := s.sequenced_shape; rw [h]
@[simp] theorem State.sequenced_ivtp (s : State) : (s.sequenced).ivtp = s.ivtp := by
  obtain ⟨_, _, _, _, _, _, h, _⟩ := s.sequenced_shape; rw [h]
@[simp] theorem State.sequenced_tvtp (s : State) : (s.sequenced).tvtp = s.tvtp := by
  obtain ⟨_, _, _, _, _, _, h, _⟩ := s.sequenced_shape; rw [h]
@[simp] theorem State.sequenced_ir (s : State) : (s.sequenced).ir = s.ir := by
  obtain ⟨_, _, _, _, _, _, h, _⟩ := s.sequenced_shape; rw [h]
@[simp] theorem State.sequenced_busy (s : State) : (s.sequenced).busy = s.busy := by
  obtain ⟨_, _, _, _, _, _, h, _⟩ := s.sequenced_shape; rw [h]
@[simp] theorem State.sequenced_phase (s : State) : (s.sequenced).phase = s.phase := by
  obtain ⟨_, _, _, _, _, _, h, _⟩ := s.sequenced_shape; rw [h]
@[simp] theorem State.sequenced_entering (s : State) : (s.sequenced).entering = s.entering := by
  obtain ⟨_, _, _, _, _, _, h, _⟩ := s.sequenced_shape; rw [h]
@[simp] theorem State.sequenced_lockGlobal (s : State) : (s.sequenced).lockGlobal = s.lockGlobal := by
  obtain ⟨_, _, _, _, _, _, h, _⟩ := s.sequenced_shape; rw [h]
@[simp] theorem State.sequenced_lockLocal (s : State) : (s.sequenced).lockLocal = s.lockLocal := by
  obtain ⟨_, _, _, _, _, _, h, _⟩ := s.sequenced_shape; rw [h]
@[simp] theorem State.sequenced_iack (s : State) : (s.sequenced).iack = s.iack := by
  obtain ⟨_, _, _, _, _, _, h, _⟩ := s.sequenced_shape; rw [h]
@[simp] theorem State.sequenced_globalBus (s : State) : (s.sequenced).globalBus = s.globalBus := by
  obtain ⟨_, _, _, _, _, _, h, _⟩ := s.sequenced_shape; rw [h]
@[simp] theorem State.sequenced_localBus (s : State) : (s.sequenced).localBus = s.localBus := by
  obtain ⟨_, _, _, _, _, _, h, _⟩ := s.sequenced_shape; rw [h]
@[simp] theorem State.sequenced_cache (s : State) : (s.sequenced).cache = s.cache := by
  obtain ⟨_, _, _, _, _, _, h, _⟩ := s.sequenced_shape; rw [h]
@[simp] theorem State.sequenced_dev (s : State) : (s.sequenced).dev = s.dev := by
  obtain ⟨_, _, _, _, _, _, h, _⟩ := s.sequenced_shape; rw [h]
@[simp] theorem State.sequenced_pins (s : State) : (s.sequenced).pins = s.pins := by
  obtain ⟨_, _, _, _, _, _, h, _⟩ := s.sequenced_shape; rw [h]
@[simp] theorem State.sequenced_board (s : State) : (s.sequenced).board = s.board := by
  obtain ⟨_, _, _, _, _, _, h, _⟩ := s.sequenced_shape; rw [h]
@[simp] theorem State.sequenced_romImage (s : State) : (s.sequenced).romImage = s.romImage := by
  obtain ⟨_, _, _, _, _, _, h, _⟩ := s.sequenced_shape; rw [h]
@[simp] theorem State.sequenced_mem (s : State) : (s.sequenced).mem = s.mem := by
  obtain ⟨_, _, _, _, _, _, h, _⟩ := s.sequenced_shape; rw [h]
@[simp] theorem State.sequenced_nmiLast (s : State) : (s.sequenced).nmiLast = s.nmiLast := by
  obtain ⟨_, _, _, _, _, _, h, _⟩ := s.sequenced_shape; rw [h]
@[simp] theorem State.sequenced_iiofLast (s : State) : (s.sequenced).iiofLast = s.iiofLast := by
  obtain ⟨_, _, _, _, _, _, h, _⟩ := s.sequenced_shape; rw [h]
@[simp] theorem State.sequenced_ackPending (s : State) : (s.sequenced).ackPending = s.ackPending := by
  obtain ⟨_, _, _, _, _, _, h, _⟩ := s.sequenced_shape; rw [h]
@[simp] theorem State.sequenced_levelAck (s : State) : (s.sequenced).levelAck = s.levelAck := by
  obtain ⟨_, _, _, _, _, _, h, _⟩ := s.sequenced_shape; rw [h]
@[simp] theorem State.sequenced_raisePending (s : State) : (s.sequenced).raisePending = s.raisePending := by
  obtain ⟨_, _, _, _, _, _, h, _⟩ := s.sequenced_shape; rw [h]
@[simp] theorem State.sequenced_levelRaise (s : State) : (s.sequenced).levelRaise = s.levelRaise := by
  obtain ⟨_, _, _, _, _, _, h, _⟩ := s.sequenced_shape; rw [h]
@[simp] theorem State.sequenced_claimed (s : State) : (s.sequenced).claimed = s.claimed := by
  obtain ⟨_, _, _, _, _, _, h, _⟩ := s.sequenced_shape; rw [h]
@[simp] theorem State.sequenced_dmaHeld (s : State) : (s.sequenced).dmaHeld = s.dmaHeld := by
  obtain ⟨_, _, _, _, _, _, h, _⟩ := s.sequenced_shape; rw [h]
@[simp] theorem State.sequenced_early (s : State) : (s.sequenced).early = s.early := by
  obtain ⟨_, _, _, _, _, _, h, _⟩ := s.sequenced_shape; rw [h]
@[simp] theorem State.sequenced_inputs (s : State) : (s.sequenced).inputs = s.inputs := by
  obtain ⟨_, _, _, _, _, _, h, _⟩ := s.sequenced_shape; rw [h]
@[simp] theorem State.sequenced_outputs (s : State) : (s.sequenced).outputs = s.outputs := by
  obtain ⟨_, _, _, _, _, _, h, _⟩ := s.sequenced_shape; rw [h]

/-! ### shows -/

@[simp] theorem State.shows_r (s t : State) (k : Access) (a : Word) (w : Option Word) : (s.shows k a w t).r = t.r := by
  unfold State.shows; split <;> simp
@[simp] theorem State.shows_ar (s t : State) (k : Access) (a : Word) (w : Option Word) : (s.shows k a w t).ar = t.ar := by
  unfold State.shows; split <;> simp
@[simp] theorem State.shows_dp (s t : State) (k : Access) (a : Word) (w : Option Word) : (s.shows k a w t).dp = t.dp := by
  unfold State.shows; split <;> simp
@[simp] theorem State.shows_ir0 (s t : State) (k : Access) (a : Word) (w : Option Word) : (s.shows k a w t).ir0 = t.ir0 := by
  unfold State.shows; split <;> simp
@[simp] theorem State.shows_ir1 (s t : State) (k : Access) (a : Word) (w : Option Word) : (s.shows k a w t).ir1 = t.ir1 := by
  unfold State.shows; split <;> simp
@[simp] theorem State.shows_bk (s t : State) (k : Access) (a : Word) (w : Option Word) : (s.shows k a w t).bk = t.bk := by
  unfold State.shows; split <;> simp
@[simp] theorem State.shows_sp (s t : State) (k : Access) (a : Word) (w : Option Word) : (s.shows k a w t).sp = t.sp := by
  unfold State.shows; split <;> simp
@[simp] theorem State.shows_st (s t : State) (k : Access) (a : Word) (w : Option Word) : (s.shows k a w t).st = t.st := by
  unfold State.shows; split <;> simp
@[simp] theorem State.shows_die (s t : State) (k : Access) (a : Word) (w : Option Word) : (s.shows k a w t).die = t.die := by
  unfold State.shows; split <;> simp
@[simp] theorem State.shows_iie (s t : State) (k : Access) (a : Word) (w : Option Word) : (s.shows k a w t).iie = t.iie := by
  unfold State.shows; split <;> simp
@[simp] theorem State.shows_iif (s t : State) (k : Access) (a : Word) (w : Option Word) : (s.shows k a w t).iif = t.iif := by
  unfold State.shows; split <;> simp
@[simp] theorem State.shows_rs (s t : State) (k : Access) (a : Word) (w : Option Word) : (s.shows k a w t).rs = t.rs := by
  unfold State.shows; split <;> simp
@[simp] theorem State.shows_re (s t : State) (k : Access) (a : Word) (w : Option Word) : (s.shows k a w t).re = t.re := by
  unfold State.shows; split <;> simp
@[simp] theorem State.shows_rc (s t : State) (k : Access) (a : Word) (w : Option Word) : (s.shows k a w t).rc = t.rc := by
  unfold State.shows; split <;> simp
@[simp] theorem State.shows_ivtp (s t : State) (k : Access) (a : Word) (w : Option Word) : (s.shows k a w t).ivtp = t.ivtp := by
  unfold State.shows; split <;> simp
@[simp] theorem State.shows_tvtp (s t : State) (k : Access) (a : Word) (w : Option Word) : (s.shows k a w t).tvtp = t.tvtp := by
  unfold State.shows; split <;> simp
@[simp] theorem State.shows_pc (s t : State) (k : Access) (a : Word) (w : Option Word) : (s.shows k a w t).pc = t.pc := by
  unfold State.shows; split <;> simp
@[simp] theorem State.shows_repeatSingle (s t : State) (k : Access) (a : Word) (w : Option Word) : (s.shows k a w t).repeatSingle = t.repeatSingle := by
  unfold State.shows; split <;> simp
@[simp] theorem State.shows_ir (s t : State) (k : Access) (a : Word) (w : Option Word) : (s.shows k a w t).ir = t.ir := by
  unfold State.shows; split <;> simp
@[simp] theorem State.shows_irHeld (s t : State) (k : Access) (a : Word) (w : Option Word) : (s.shows k a w t).irHeld = t.irHeld := by
  unfold State.shows; split <;> simp
@[simp] theorem State.shows_delay (s t : State) (k : Access) (a : Word) (w : Option Word) : (s.shows k a w t).delay = t.delay := by
  unfold State.shows; split <;> simp
@[simp] theorem State.shows_busy (s t : State) (k : Access) (a : Word) (w : Option Word) : (s.shows k a w t).busy = t.busy := by
  unfold State.shows; split <;> simp
@[simp] theorem State.shows_phase (s t : State) (k : Access) (a : Word) (w : Option Word) : (s.shows k a w t).phase = t.phase := by
  unfold State.shows; split <;> simp
@[simp] theorem State.shows_entering (s t : State) (k : Access) (a : Word) (w : Option Word) : (s.shows k a w t).entering = t.entering := by
  unfold State.shows; split <;> simp
@[simp] theorem State.shows_lockGlobal (s t : State) (k : Access) (a : Word) (w : Option Word) : (s.shows k a w t).lockGlobal = t.lockGlobal := by
  unfold State.shows; split <;> simp
@[simp] theorem State.shows_lockLocal (s t : State) (k : Access) (a : Word) (w : Option Word) : (s.shows k a w t).lockLocal = t.lockLocal := by
  unfold State.shows; split <;> simp
@[simp] theorem State.shows_iack (s t : State) (k : Access) (a : Word) (w : Option Word) : (s.shows k a w t).iack = t.iack := by
  unfold State.shows; split <;> simp
@[simp] theorem State.shows_cache (s t : State) (k : Access) (a : Word) (w : Option Word) : (s.shows k a w t).cache = t.cache := by
  unfold State.shows; split <;> simp
@[simp] theorem State.shows_dev (s t : State) (k : Access) (a : Word) (w : Option Word) : (s.shows k a w t).dev = t.dev := by
  unfold State.shows; split <;> simp
@[simp] theorem State.shows_pins (s t : State) (k : Access) (a : Word) (w : Option Word) : (s.shows k a w t).pins = t.pins := by
  unfold State.shows; split <;> simp
@[simp] theorem State.shows_board (s t : State) (k : Access) (a : Word) (w : Option Word) : (s.shows k a w t).board = t.board := by
  unfold State.shows; split <;> simp
@[simp] theorem State.shows_romImage (s t : State) (k : Access) (a : Word) (w : Option Word) : (s.shows k a w t).romImage = t.romImage := by
  unfold State.shows; split <;> simp
@[simp] theorem State.shows_mem (s t : State) (k : Access) (a : Word) (w : Option Word) : (s.shows k a w t).mem = t.mem := by
  unfold State.shows; split <;> simp
@[simp] theorem State.shows_nmiLast (s t : State) (k : Access) (a : Word) (w : Option Word) : (s.shows k a w t).nmiLast = t.nmiLast := by
  unfold State.shows; split <;> simp
@[simp] theorem State.shows_iiofLast (s t : State) (k : Access) (a : Word) (w : Option Word) : (s.shows k a w t).iiofLast = t.iiofLast := by
  unfold State.shows; split <;> simp
@[simp] theorem State.shows_ackPending (s t : State) (k : Access) (a : Word) (w : Option Word) : (s.shows k a w t).ackPending = t.ackPending := by
  unfold State.shows; split <;> simp
@[simp] theorem State.shows_levelAck (s t : State) (k : Access) (a : Word) (w : Option Word) : (s.shows k a w t).levelAck = t.levelAck := by
  unfold State.shows; split <;> simp
@[simp] theorem State.shows_raisePending (s t : State) (k : Access) (a : Word) (w : Option Word) : (s.shows k a w t).raisePending = t.raisePending := by
  unfold State.shows; split <;> simp
@[simp] theorem State.shows_levelRaise (s t : State) (k : Access) (a : Word) (w : Option Word) : (s.shows k a w t).levelRaise = t.levelRaise := by
  unfold State.shows; split <;> simp
@[simp] theorem State.shows_claimed (s t : State) (k : Access) (a : Word) (w : Option Word) : (s.shows k a w t).claimed = t.claimed := by
  unfold State.shows; split <;> simp
@[simp] theorem State.shows_dmaHeld (s t : State) (k : Access) (a : Word) (w : Option Word) : (s.shows k a w t).dmaHeld = t.dmaHeld := by
  unfold State.shows; split <;> simp
@[simp] theorem State.shows_waiting (s t : State) (k : Access) (a : Word) (w : Option Word) : (s.shows k a w t).waiting = t.waiting := by
  unfold State.shows; split <;> simp
@[simp] theorem State.shows_early (s t : State) (k : Access) (a : Word) (w : Option Word) : (s.shows k a w t).early = t.early := by
  unfold State.shows; split <;> simp
@[simp] theorem State.shows_inputs (s t : State) (k : Access) (a : Word) (w : Option Word) : (s.shows k a w t).inputs = t.inputs := by
  unfold State.shows; split <;> simp
@[simp] theorem State.shows_draws (s t : State) (k : Access) (a : Word) (w : Option Word) : (s.shows k a w t).draws = t.draws := by
  unfold State.shows; split <;> simp

/-! ### A register loaded early -/

/-- With nothing loaded early a register reads as it is held. -/
theorem State.newest_of_none {s : State} (h : s.early = none) (d : Reg) (v : Word) : s.newest d v = v := by
  simp [State.newest, h]

/-- A register loaded early reads as the loaded value, every other one as it is held. -/
theorem State.newest_of_some {s : State} {e : Reg} {w : Word} (h : s.early = some (e, w)) (d : Reg) (v : Word) :
    s.newest d v = if e = d then w else v := by
  simp [State.newest, h]

end Sys2Proof.Machine
end

