-- ==== Sys2Proof/Laws/Bus.lean ====
section
/-! SUPPORT. The two accesses: what a read and a write can change, and when they finish. -/

namespace Sys2Proof.Machine

/-! ### Sequencing of computations -/

@[simp] theorem Res.bind_ok {α β : Type} (a : α) (s : State) (k : α → State → Res β) :
    (Res.ok a s).bind k = k a s := rfl
@[simp] theorem Res.bind_wait {α β : Type} (w : Wait) (k : α → State → Res β) : (Res.wait w).bind k = .wait w := rfl
@[simp] theorem Res.bind_fault {α β : Type} (f : Fault) (k : α → State → Res β) : (Res.fault f).bind k = .fault f := rfl
@[simp] theorem Res.bind_refused {α β : Type} (r : Refusal) (k : α → State → Res β) :
    (Res.refused r).bind k = .refused r := rfl

/-- A sequence finishes only where its first part does. -/
theorem Res.bind_eq_ok {α β : Type} {x : Res α} {k : α → State → Res β} {b : β} {u : State} (h : x.bind k = .ok b u) :
    ∃ a t, x = .ok a t ∧ k a t = .ok b u := by
  cases x with
  | ok a t => exact ⟨a, t, rfl, h⟩
  | wait w => cases h
  | fault f => cases h
  | refused r => cases h

@[simp] theorem Res.andThen_ok {α : Type} (a : α) (s : State) (f : α → State → State) :
    (Res.ok a s).andThen f = .ok () (f a s) := rfl

/-- The same where the second part always finishes. -/
theorem Res.andThen_eq_ok {α : Type} {x : Res α} {f : α → State → State} {b : Unit} {u : State}
    (h : x.andThen f = .ok b u) : ∃ a t, x = .ok a t ∧ u = f a t := by
  obtain ⟨a, t, hx, h⟩ := Res.bind_eq_ok h
  cases h
  exact ⟨a, t, hx, rfl⟩

/-! ### Devices -/

/-- A port replaced by a bounded one leaves the devices sound. -/
theorem Devices.Sound.setPort {d : Devices} (h : d.Sound) (k : Fin 6) {p : Port} (hp : p.bounded = true) :
    (d.setPort k p).Sound := by
  obtain ⟨h1, h2, h3, h4, h5⟩ := h
  refine ⟨h1, h2, h3, fun j => ?_, h5⟩
  by_cases hj : j = k
  · subst hj
    simpa [Devices.setPort] using hp
  · have : k.val ≠ j.val := fun e => hj (Fin.ext e.symm)
    have hs : (d.setPort k p).ports[j] = d.ports[j] := by
      simp only [Devices.setPort, Fin.getElem_fin]
      exact Vector.getElem_set_ne _ _ this
    rw [hs]
    exact h4 j

theorem Port.bounded_iff {p : Port} : p.bounded = true ↔ p.inFifo.length ≤ 8 ∧ p.outFifo.length ≤ 8 := by
  simp [Port.bounded]

/-- The arbiter touches no FIFO. -/
@[simp] theorem Port.arbitrate_inFifo (p : Port) : p.arbitrate.inFifo = p.inFifo := by
  unfold Port.arbitrate
  dsimp only
  split
  · rfl
  · split
    · rfl
    · split <;> rfl

@[simp] theorem Port.arbitrate_outFifo (p : Port) : p.arbitrate.outFifo = p.outFifo := by
  unfold Port.arbitrate
  dsimp only
  split
  · rfl
  · split
    · rfl
    · split <;> rfl

/-- A read takes at most a character off the receiver FIFO. -/
theorem Uart.read_queues {u : Uart} {off : Nat} {free v : Word} {w : Uart} (h : u.read off free = some (v, w)) :
    w.rx.length ≤ u.rx.length ∧ w.tx = u.tx := by
  unfold Uart.read at h
  split at h
  all_goals first
    | (cases h; exact ⟨Nat.le_refl _, rfl⟩)
    | (split at h
       · cases h; exact ⟨Nat.le_refl _, rfl⟩
       · first
         | (cases h; exact ⟨Nat.le_refl _, rfl⟩)
         | (split at h <;> cases h <;> simp [Uart.popRx]))
    | cases h

/-- A character is written only into a FIFO that has room. -/
theorem uartRoom_le {n : Nat} (h : uartRoom n = true) : n + 1 ≤ uartDepth := by
  unfold uartRoom at h
  unfold uartDepth at h ⊢
  split at h
  · omega
  · have := of_decide_eq_true h
    omega

/-- A write keeps the FIFOs within their depth. -/
theorem Uart.write_queues {u w : Uart} {off : Nat} {v : Word} (h : u.write off v = some w)
    (hu : u.rx.length ≤ uartDepth ∧ u.tx.length ≤ uartDepth) : w.rx.length ≤ uartDepth ∧ w.tx.length ≤ uartDepth := by
  unfold Uart.write at h
  split at h
  · split at h
    · cases h; exact hu
    · cases h
      refine ⟨hu.1, ?_⟩
      dsimp only
      split
      · rename_i hr
        simpa using uartRoom_le hr
      · exact hu.2
  · split at h <;> cases h <;> exact hu
  · cases h
    refine ⟨?_, ?_⟩ <;> dsimp only <;> split <;> first | exact Nat.zero_le _ | exact hu.1 | exact hu.2
  all_goals first | (cases h; exact hu) | cases h

/-- A register write leaves the receive FIFO alone. -/
theorem Ethernet.write_rxFifo {e x : Ethernet} {off : Nat} {v : Word} (h : e.write off v = some x) : x.rxFifo = e.rxFifo := by
  have tx : ∀ b, (e.enableTx b).rxFifo = e.rxFifo := fun b => by
    unfold Ethernet.enableTx
    split <;> rfl
  have rx : ∀ b, (e.enableRx b).rxFifo = e.rxFifo := fun b => by
    unfold Ethernet.enableRx
    split <;> rfl
  unfold Ethernet.write at h
  split at h
  · split at h <;> cases h <;> rfl
  · split at h
    all_goals first
      | (cases h; rfl)
      | (cases h; exact tx _)
      | (cases h; exact rx _)
      | cases h

/-- A device read changes no other device, and adds nothing to a queue. -/
theorem Devices.readDevice_shape {d : Devices} {k : Device} {off draw : Nat} {a v : Word} {e : Devices}
    (h : d.readDevice k off draw a = some (v, e)) :
    ∃ u b m, e = { d with uart := u, usb := b, mil := m } ∧ (d.queued → e.queued) := by
  cases k with
  | uart =>
    simp only [Devices.readDevice, Option.map_eq_some_iff] at h
    obtain ⟨⟨w, x⟩, hr, hx⟩ := h
    cases hx
    have hq := Uart.read_queues hr
    exact ⟨x, d.usb, d.mil, rfl, fun q => ⟨q.1, Nat.le_trans hq.1 q.2.1, hq.2 ▸ q.2.2.1, q.2.2.2⟩⟩
  | usb =>
    simp only [Devices.readDevice, Option.map_eq_some_iff] at h
    obtain ⟨x, _, hx⟩ := h
    cases hx
    exact ⟨d.uart, x.2, d.mil, rfl, id⟩
  | ethernet =>
    simp only [Devices.readDevice, Option.map_eq_some_iff] at h
    obtain ⟨x, _, hx⟩ := h
    cases hx
    exact ⟨d.uart, d.usb, d.mil, rfl, id⟩
  | mil =>
    simp only [Devices.readDevice, Option.map_eq_some_iff] at h
    obtain ⟨x, hr, hx⟩ := h
    cases hx
    refine ⟨d.uart, d.usb, x.2, rfl, fun q => ⟨Nat.le_trans ?_ q.1, q.2⟩⟩
    unfold Mil.read at hr
    split at hr
    all_goals first
      | (cases hr; exact Nat.le_refl _)
      | (split at hr <;> cases hr <;> simp [*])
      | cases hr

/-- A device write changes one device, and keeps the queues within their depths. -/
theorem Devices.writeDevice_shape {d : Devices} {k : Device} {off : Nat} {v : Word} {e : Devices}
    (h : d.writeDevice k off v = some e) :
    ∃ u n b m r g, e = { d with uart := u, ethernet := n, usb := b, mil := m, milRun := r, milHeard := g } ∧ (d.queued → e.queued) := by
  cases k with
  | uart =>
    simp only [Devices.writeDevice, Option.map_eq_some_iff] at h
    obtain ⟨x, hr, rfl⟩ := h
    exact ⟨x, d.ethernet, d.usb, d.mil, d.milRun, d.milHeard, rfl, fun q =>
      have w := Uart.write_queues hr ⟨q.2.1, q.2.2.1⟩
      ⟨q.1, w.1, w.2, q.2.2.2⟩⟩
  | usb =>
    simp only [Devices.writeDevice, Option.map_eq_some_iff] at h
    obtain ⟨x, _, rfl⟩ := h
    exact ⟨d.uart, d.ethernet, x, d.mil, d.milRun, d.milHeard, rfl, id⟩
  | ethernet =>
    simp only [Devices.writeDevice, Option.map_eq_some_iff] at h
    obtain ⟨x, hr, rfl⟩ := h
    exact ⟨d.uart, x, d.usb, d.mil, d.milRun, d.milHeard, rfl, fun q => ⟨q.1, q.2.1, q.2.2.1, by
      rw [Ethernet.rxWords, Ethernet.write_rxFifo hr]
      exact q.2.2.2⟩⟩
  | mil =>
    simp only [Devices.writeDevice, Option.map_eq_some_iff] at h
    obtain ⟨x, hr, rfl⟩ := h
    refine ⟨d.uart, d.ethernet, d.usb, x, _, _, rfl, fun q => ⟨Nat.le_trans ?_ q.1, q.2⟩⟩
    show x.isio.length ≤ d.mil.isio.length
    have parity : ∀ m : Mil, m.checkParity.isio = m.isio := fun m => by
      unfold Mil.checkParity
      split <;> rfl
    have start : ∀ (m : Mil) c v, (m.start c v).isio = m.isio := fun m c v => by
      unfold Mil.start
      dsimp only
      split <;> rfl
    unfold Mil.write at hr
    split at hr
    · cases hr
      split
      · rw [parity]; exact Nat.zero_le _
      · exact Nat.le_refl _
    · cases hr
      rw [parity]
    all_goals first
      | (cases hr; exact Nat.le_refl _)
      | (cases hr; rw [start])
      | cases hr

/-- Sound devices stay sound where the replaced devices keep their queues within their depths. -/
theorem Devices.Sound.replace {d e : Devices} (h : d.Sound) {u n b m r g}
    (he : e = { d with uart := u, ethernet := n, usb := b, mil := m, milRun := r, milHeard := g })
    (hq : d.queued → e.queued) : e.Sound := by
  have hs := hq h.2.2.2.2
  subst he
  exact ⟨h.1, h.2.1, h.2.2.1, h.2.2.2.1, hs⟩

/-! ### The bus cycle of an access -/

/-- The cycle of an access changes only what the buses remember and show. -/
theorem State.shows_shape (s t : State) (k : Access) (a : Word) (w : Option Word) :
    ∃ g l o, s.shows k a w t = { t with globalBus := g, localBus := l, outputs := o } := by
  unfold State.shows State.cycled
  split
  · split <;> exact ⟨_, _, _, rfl⟩
  · exact ⟨_, _, _, rfl⟩

/-- An access inside the core shows nothing. -/
theorem State.shows_inner {s : State} {a : Word} (h : s.onBus a = false) (k : Access) (w : Option Word) (t : State) :
    s.shows k a w t = t := by
  simp [State.shows, h]

/-- Outside the core an access shows its cycle. -/
theorem State.shows_outer {s : State} {a : Word} (h : s.onBus a = true) (k : Access) (w : Option Word) (t : State) :
    s.shows k a w t = t.cycled (s.busCycle k a w) := by
  simp [State.shows, h]

/-- Only an access to the peripheral bus can be held off by another one. -/
theorem State.blocked_inner {s : State} {a : Word} (h : (region s.pins.romen a).peripheral = false) (k : Access) :
    s.blocked k a = false := by
  simp [State.blocked, h]

/-! ### One read -/

/-- What stands behind an address, read, changes only the devices and the draw counter, and keeps the devices sound. -/
theorem readAt_shape {k : Access} {a : Word} {s : State} {v : Word} {t : State} (h : readAt k a s = .ok v t) :
    ∃ d n, t = { s with dev := d, draws := n } ∧ (s.dev.Sound → d.Sound) := by
  have free : ∀ {x : Word} {u : State}, s.readFree a = .ok x u →
      ∃ d n, u = { s with dev := d, draws := n } ∧ (s.dev.Sound → d.Sound) := fun h => by
    cases h
    exact ⟨s.dev, s.draws + 1, rfl, id⟩
  have bus : ∀ {x : Word} {u : State}, s.localRead k a = .ok x u →
      ∃ d n, u = { s with dev := d, draws := n } ∧ (s.dev.Sound → d.Sound) := fun h => by
    unfold State.localRead at h
    split at h
    · cases h
    · exact free h
  unfold readAt at h
  split at h
  · cases h; exact ⟨s.dev, s.draws, rfl, id⟩
  · cases h; exact ⟨s.dev, s.draws, rfl, id⟩
  · split at h
    · cases h
    · split at h
      · cases h; exact ⟨s.dev, s.draws, rfl, id⟩
      · exact free h
  · cases h; exact ⟨s.dev, s.draws, rfl, id⟩
  · split at h
    · cases h; exact ⟨s.dev, s.draws, rfl, id⟩
    · exact free h
  · rename_i p off _
    unfold State.portRead at h
    dsimp only at h
    split at h
    · cases h; exact ⟨s.dev, s.draws + 1, rfl, id⟩
    · split at h
      · unfold State.fifoRead at h
        split at h
        · cases h; exact ⟨s.dev, s.draws + 1, rfl, id⟩
        · cases h
      · cases h
        refine ⟨_, s.draws, rfl, fun x => x.setPort p ?_⟩
        have hb := Port.bounded_iff.1 (x.2.2.2.1 p)
        exact Port.bounded_iff.2 ⟨by simp only [Port.pop, Port.arbitrate_inFifo, List.length_tail]; omega,
          by simp only [Port.pop, Port.arbitrate_outFifo]; exact hb.2⟩
    · exact free h
  · split at h
    · cases h; exact ⟨_, s.draws, rfl, fun x => ⟨x.1, x.2.1, x.2.2.1, x.2.2.2.1, x.2.2.2.2⟩⟩
    · exact free h
  · split at h
    · unfold State.commutatorRead at h
      split at h
      · cases h; exact ⟨s.dev, s.draws, rfl, id⟩
      · split at h
        · split at h
          · cases h; exact ⟨s.dev, s.draws, rfl, id⟩
          · cases h; exact ⟨_, s.draws, rfl, fun x => ⟨x.1, x.2.1, x.2.2.1, x.2.2.2.1, x.2.2.2.2⟩⟩
        · cases h; exact ⟨s.dev, s.draws, rfl, id⟩
    · exact bus h
  · split at h
    · split at h
      · rename_i x hx
        obtain ⟨w, e⟩ := x
        cases h
        obtain ⟨u, b, m, he, hm⟩ := Devices.readDevice_shape hx
        exact ⟨_, s.draws + 1, rfl, fun x => x.replace (n := s.dev.ethernet) (r := s.dev.milRun) (g := s.dev.milHeard) he hm⟩
      · exact free h
    · exact bus h
  · split at h
    · cases h; exact ⟨s.dev, s.draws, rfl, id⟩
    · exact bus h
  · split at h
    · cases h; exact ⟨s.dev, s.draws, rfl, id⟩
    · exact bus h
  · exact bus h
  · split at h
    · cases h
    · exact free h
  · exact free h

/-- A read that finishes changes only the devices, the draw counter and what the buses remember and show, and keeps the
devices sound. -/
theorem memRead_shape {k : Access} {a : Word} {s : State} {v : Word} {t : State} (h : memRead k a s = .ok v t) :
    ∃ d n g l o, t = { s with dev := d, draws := n, globalBus := g, localBus := l, outputs := o } ∧ (s.dev.Sound → d.Sound) := by
  unfold memRead at h
  split at h
  · cases h
  · obtain ⟨w, u, hr, hu⟩ := Res.bind_eq_ok h
    obtain ⟨d, n, rfl, hs⟩ := readAt_shape hr
    obtain ⟨g, l, o, ho⟩ := s.shows_shape { s with dev := d, draws := n } k a none
    cases hu
    exact ⟨d, n, g, l, o, ho, hs⟩

/-- What stands behind an address never stops a read: it finishes or waits. -/
theorem readAt_not_stopped (k : Access) (a : Word) (s : State) :
    (∃ v t, readAt k a s = .ok v t) ∨ ∃ w, readAt k a s = .wait w := by
  have free : ∃ v t, s.readFree a = .ok v t := ⟨_, _, rfl⟩
  have bus : (∃ v t, s.localRead k a = .ok v t) ∨ ∃ w', s.localRead k a = .wait w' := by
    unfold State.localRead
    split
    · exact .inr ⟨_, rfl⟩
    · exact .inl free
  unfold readAt
  split
  · exact .inl ⟨_, _, rfl⟩
  · exact .inl ⟨_, _, rfl⟩
  · split
    · exact .inr ⟨_, rfl⟩
    · split
      · exact .inl ⟨_, _, rfl⟩
      · exact .inl free
  · exact .inl ⟨_, _, rfl⟩
  · split
    · exact .inl ⟨_, _, rfl⟩
    · exact .inl free
  · unfold State.portRead
    dsimp only
    split
    · exact .inl ⟨_, _, rfl⟩
    · split
      · unfold State.fifoRead
        split
        · exact .inl ⟨_, _, rfl⟩
        · exact .inr ⟨_, rfl⟩
      · exact .inl ⟨_, _, rfl⟩
    · exact .inl free
  · split
    · exact .inl ⟨_, _, rfl⟩
    · exact .inl free
  · split
    · unfold State.commutatorRead
      split
      · exact .inl ⟨_, _, rfl⟩
      · split
        · split <;> exact .inl ⟨_, _, rfl⟩
        · exact .inl ⟨_, _, rfl⟩
    · exact bus
  · split
    · split
      · exact .inl ⟨_, _, rfl⟩
      · exact .inl free
    · exact bus
  · split
    · exact .inl ⟨_, _, rfl⟩
    · exact bus
  · split
    · exact .inl ⟨_, _, rfl⟩
    · exact bus
  · exact bus
  · split
    · exact .inr ⟨_, rfl⟩
    · exact .inl free
  · exact .inl free

/-- A read never stops the machine: it finishes or waits. -/
theorem memRead_not_stopped (k : Access) (a : Word) (s : State) :
    (∃ v t, memRead k a s = .ok v t) ∨ ∃ w, memRead k a s = .wait w := by
  unfold memRead
  split
  · exact .inr ⟨_, rfl⟩
  · rcases readAt_not_stopped k a s with ⟨v, t, h⟩ | ⟨w, h⟩ <;> rw [h]
    · exact .inl ⟨_, _, rfl⟩
    · exact .inr ⟨_, rfl⟩

/-! ### One write -/

/-- What stands behind an address, written, changes only the devices and the memory: the word at its address, or nothing; it
keeps the devices sound. -/
theorem writeAt_shape {k : Access} {a v : Word} {s : State} {x : Unit} {t : State} (h : writeAt k a v s = .ok x t) :
    ∃ d m, t = { s with dev := d, mem := m } ∧ (s.dev.Sound → d.Sound)
      ∧ (m = s.mem ∨ ∃ w, m = Memory.writeWord s.mem a w) := by
  have bus : ∀ {x : Unit} {u : State}, s.localWrite k a v = .ok x u →
      ∃ d m, u = { s with dev := d, mem := m } ∧ (s.dev.Sound → d.Sound)
        ∧ (m = s.mem ∨ ∃ w, m = Memory.writeWord s.mem a w) := fun h => by
    unfold State.localWrite at h
    split at h
    · cases h
    · cases h; exact ⟨s.dev, s.mem, rfl, id, .inl rfl⟩
  unfold writeAt at h
  split at h
  · cases h; exact ⟨s.dev, _, rfl, id, .inr ⟨v, rfl⟩⟩
  · cases h; exact ⟨s.dev, s.mem, rfl, id, .inl rfl⟩
  · split at h
    · cases h
    · split at h
      · cases h; exact ⟨s.dev, _, rfl, id, .inr ⟨v, rfl⟩⟩
      · cases h; exact ⟨s.dev, s.mem, rfl, id, .inl rfl⟩
  · cases h
    have masked : (v &&& 0x3FFFFFF0#32) &&& 0xC000000F#32 = 0#32 := by
      rw [BitVec.and_assoc]; simp
    split
    · exact ⟨_, s.mem, rfl, fun x => ⟨x.1, x.2.1, masked, x.2.2.2.1, x.2.2.2.2⟩, .inl rfl⟩
    · exact ⟨_, s.mem, rfl, fun x => ⟨x.1, masked, x.2.2.1, x.2.2.2.1, x.2.2.2.2⟩, .inl rfl⟩
  · split at h
    · rename_i n off _ _ y _
      cases h
      refine ⟨_, s.mem, rfl, fun x => ⟨?_, x.2.1, x.2.2.1, x.2.2.2.1, x.2.2.2.2⟩, .inl rfl⟩
      show (s.dev.setTimer n y).pulses &&& 0x00FFFFFF = 0
      unfold Devices.setTimer
      dsimp only
      split
      · have hb : ∀ i, i = 24 ∨ i = 31 → putBit s.dev.pulses i true &&& 0x00FFFFFF#32 = 0#32 := by
          intro i hi
          simp only [putBit, if_true]
          have none : s.dev.pulses &&& 0x00FFFFFF#32 = 0#32 := x.1
          rw [BitVec.and_or_distrib_right, none]
          rcases hi with rfl | rfl <;> simp
        unfold timerFlag
        split <;> exact hb _ (by simp)
      · exact x.1
    · cases h
  · rename_i p off _
    unfold State.portWrite at h
    dsimp only at h
    split at h
    · cases h
      refine ⟨_, s.mem, rfl, fun x => x.setPort p ?_, .inl rfl⟩
      have hb := Port.bounded_iff.1 (x.2.2.2.1 p)
      exact Port.bounded_iff.2 ⟨by simpa [Port.writeControl] using hb.1, by simpa [Port.writeControl] using hb.2⟩
    · cases h; exact ⟨_, s.mem, rfl, fun x => x, .inl rfl⟩
    · split at h
      · rename_i hr
        cases h
        refine ⟨_, s.mem, rfl, fun x => x.setPort p ?_, .inl rfl⟩
        have hb := Port.bounded_iff.1 (x.2.2.2.1 p)
        simp only [Port.ocRdy, decide_eq_true_eq] at hr
        refine Port.bounded_iff.2 ⟨by simpa [Port.push] using hb.1, ?_⟩
        simp only [Port.push, Port.arbitrate_outFifo, List.length_append, List.length_singleton]
        omega
      · unfold State.fifoWrite at h
        split at h
        · cases h; exact ⟨s.dev, s.mem, rfl, id, .inl rfl⟩
        · cases h
    · cases h
      exact ⟨_, s.mem, rfl, fun x => x.setPort p (by simp [Port.clear, Port.bounded]), .inl rfl⟩
    · cases h
  · split at h
    · cases h; exact ⟨_, s.mem, rfl, fun x => ⟨x.1, x.2.1, x.2.2.1, x.2.2.2.1, x.2.2.2.2⟩, .inl rfl⟩
    · cases h
  · split at h
    · unfold State.commutatorWrite at h
      split at h
      · cases h; exact ⟨_, s.mem, rfl, fun x => ⟨x.1, x.2.1, x.2.2.1, x.2.2.2.1, x.2.2.2.2⟩, .inl rfl⟩
      · split at h
        · cases h; exact ⟨_, s.mem, rfl, fun x => ⟨x.1, x.2.1, x.2.2.1, x.2.2.2.1, x.2.2.2.2⟩, .inl rfl⟩
        · cases h; exact ⟨_, s.mem, rfl, fun x => x, .inl rfl⟩
    · exact bus h
  · split at h
    · split at h
      · rename_i e he
        cases h
        obtain ⟨u, n, b, m, r, g, hs, hm⟩ := Devices.writeDevice_shape he
        exact ⟨_, s.mem, rfl, fun x => x.replace hs hm, .inl rfl⟩
      · cases h
    · exact bus h
  · split at h
    · cases h; exact ⟨s.dev, _, rfl, id, .inr ⟨_, rfl⟩⟩
    · exact bus h
  · split at h
    · cases h; exact ⟨_, s.mem, rfl, fun x => ⟨x.1, x.2.1, x.2.2.1, x.2.2.2.1, x.2.2.2.2⟩, .inl rfl⟩
    · exact bus h
  · split at h <;> cases h
  · split at h <;> cases h
  · cases h

/-- A write that finishes changes only the devices, the memory, and what the buses remember and show: the word at its
address, or nothing; it keeps the devices sound. -/
theorem memWrite_shape {k : Access} {a v : Word} {s : State} {x : Unit} {t : State} (h : memWrite k a v s = .ok x t) :
    ∃ d m g l o, t = { s with dev := d, mem := m, globalBus := g, localBus := l, outputs := o } ∧ (s.dev.Sound → d.Sound)
      ∧ (m = s.mem ∨ ∃ w, m = Memory.writeWord s.mem a w) := by
  unfold memWrite at h
  split at h
  · cases h
  · obtain ⟨w, u, hr, hu⟩ := Res.bind_eq_ok h
    obtain ⟨d, m, rfl, hs, hm⟩ := writeAt_shape hr
    obtain ⟨g, l, o, ho⟩ := s.shows_shape { s with dev := d, mem := m } k a (some v)
    cases hu
    exact ⟨d, m, g, l, o, ho, hs, hm⟩

/-! ### Plain memory -/

/-- A read of on-chip RAM finishes with the word there and changes nothing. -/
theorem memRead_ram {s : State} {a : Word} (h : region s.pins.romen a = .ram) (k : Access) :
    memRead k a s = .ok (Memory.readWord s.mem a) s := by
  simp [memRead, readAt, State.blocked, State.shows, State.onBus, Region.external, Region.peripheral, h]

/-- A write of on-chip RAM finishes and changes the word there. -/
theorem memWrite_ram {s : State} {a : Word} (h : region s.pins.romen a = .ram) (k : Access) (v : Word) :
    memWrite k a v s = .ok () { s with mem := Memory.writeWord s.mem a v } := by
  simp [memWrite, writeAt, State.blocked, State.shows, State.onBus, Region.external, Region.peripheral, h]

/-- A read of ready global memory finishes with the word there and shows its cycle. -/
theorem memRead_global {s : State} {a : Word} (h : region s.pins.romen a = .global)
    (hr : globalReady s a false = true) (hp : s.populated a = true) (k : Access) :
    memRead k a s = .ok (Memory.readWord s.mem a) (s.cycled (s.busCycle k a none)) := by
  simp [memRead, readAt, State.blocked, State.shows, State.onBus, Region.external, Region.peripheral, h, hr, hp]

/-- A write of ready global memory finishes, changes the word there and shows its cycle. -/
theorem memWrite_global {s : State} {a : Word} (h : region s.pins.romen a = .global)
    (hr : globalReady s a true = true) (hp : s.populated a = true) (k : Access) (v : Word) :
    memWrite k a v s
      = .ok () (State.cycled { s with mem := Memory.writeWord s.mem a v } (s.busCycle k a (some v))) := by
  simp [memWrite, writeAt, State.blocked, State.shows, State.onBus, Region.external, Region.peripheral, h, hr, hp]

/-- The on-chip RAM, whatever ROMEN is (20 R104). -/
theorem region_ram (romen : Bool) {a : Word} (h1 : 0x2FF800 ≤ a.toNat) (h2 : a.toNat ≤ 0x2FFFFF) :
    region romen a = .ram := by
  simp only [region]
  rw [if_neg (by omega), if_pos ⟨h1, h2⟩]

end Sys2Proof.Machine
end

