-- ==== Sys2Proof/Laws/Operands.lean ====
section
/-! SUPPORT. What fetching operands and storing results can do to the state: `State.Accesses` says it once, and every
shared operation of Operands.lean and Forms.lean has one lemma in its terms. -/

namespace Sys2Proof.Machine

/-- From `s` to `t` only auxiliary registers in `l`, devices, what the buses remember and show, the draw counter and memory
words in `as` have changed; the devices stay sound and the memory canonical. -/
def State.Accesses (s t : State) (l : List Reg) (as : List Word) : Prop :=
  ∃ ar d m n g b o,
    t = { s with ar := ar, dev := d, mem := m, draws := n, globalBus := g, localBus := b, outputs := o }
    ∧ (s.dev.Sound → d.Sound)
    ∧ (∀ i : Fin 8, Reg.ar i ∉ l → ar[i] = s.ar[i]) ∧ (as = [] → m = s.mem)
    ∧ (Memory.wf s.mem = true → Memory.wf m = true ∧ ∀ k, coveredBy as k = false → Memory.get m k = Memory.get s.mem k)

theorem State.Accesses.refl (s : State) : s.Accesses s [] [] :=
  ⟨s.ar, s.dev, s.mem, s.draws, s.globalBus, s.localBus, s.outputs, rfl, id, fun _ _ => rfl, fun _ => rfl,
    fun h => ⟨h, fun _ _ => rfl⟩⟩

theorem State.Accesses.trans {s t u : State} {l l' as bs} (h : s.Accesses t l as) (g : t.Accesses u l' bs) :
    s.Accesses u (l ++ l') (as ++ bs) := by
  obtain ⟨ar, d, m, n, _, _, _, rfl, hd, ha, he, hm⟩ := h
  obtain ⟨ar', d', m', n', _, _, _, rfl, hd', ha', he', hm'⟩ := g
  refine ⟨ar', d', m', n', _, _, _, rfl, fun x => hd' (hd x), fun i hi => ?_, fun h => ?_, fun h => ?_⟩
  · rw [List.mem_append, not_or] at hi
    exact (ha' i hi.2).trans (ha i hi.1)
  · obtain ⟨rfl, rfl⟩ := List.append_eq_nil_iff.1 h
    exact (he' rfl).trans (he rfl)
  · obtain ⟨w, o⟩ := hm h
    obtain ⟨w', o'⟩ := hm' w
    refine ⟨w', fun k hk => ?_⟩
    simp only [coveredBy, List.any_append, Bool.or_eq_false_iff] at hk
    exact (o' k hk.2).trans (o k hk.1)

theorem State.Accesses.mono {s t : State} {l l' as bs} (h : s.Accesses t l as) (hl : ∀ r ∈ l, r ∈ l')
    (ha : as = bs) : s.Accesses t l' bs := by
  subst ha
  obtain ⟨ar, d, m, n, g, b, o, e, hd, ha, hm⟩ := h
  exact ⟨ar, d, m, n, g, b, o, e, hd, fun i hi => ha i fun x => hi (hl _ x), hm⟩

/-- A read is an access that changes no register and no memory. -/
theorem memRead_accesses {k : Access} {a : Word} {s : State} {v : Word} {t : State} (h : memRead k a s = .ok v t) :
    s.Accesses t [] [] := by
  obtain ⟨d, n, g, b, o, rfl, hd⟩ := memRead_shape h
  exact ⟨s.ar, d, s.mem, n, g, b, o, rfl, hd, fun _ _ => rfl, fun _ => rfl, fun h => ⟨h, fun _ _ => rfl⟩⟩

/-- A write is an access that changes at most its word. -/
theorem memWrite_accesses {k : Access} {a v : Word} {s : State} {x : Unit} {t : State} (h : memWrite k a v s = .ok x t) :
    s.Accesses t [] [a] := by
  obtain ⟨d, m, g, b, o, rfl, hd, hm⟩ := memWrite_shape h
  refine ⟨s.ar, d, m, s.draws, g, b, o, rfl, hd, fun _ _ => rfl, fun e => absurd e (List.cons_ne_nil _ _), fun hw => ?_⟩
  rcases hm with rfl | ⟨w, rfl⟩
  · exact ⟨hw, fun _ _ => rfl⟩
  · refine ⟨Memory.wf_writeWord hw _ _, fun j hj => Memory.get_writeWord_of_not_mem hw _ _ _ ?_⟩
    simpa [coveredBy] using hj

/-! ### Write-backs -/

/-- A mode that is listed as modifying nothing writes nothing back. -/
theorem State.indNew_eq_none (s : State) (i : Ind) (d : Word) (h : indModifies i = []) : s.indNew i d = none := by
  unfold indModifies at h
  unfold State.indNew
  cases hm : i.mode with
  | plain => rfl
  | bitRev => rw [hm] at h; cases h
  | indexed x m => rw [hm] at h; cases m <;> first | rfl | cases h

theorem State.writeBack_accesses (s : State) (n : Fin 8) (v : Option Word) {l : List Reg} (h : v ≠ none → Reg.ar n ∈ l) :
    s.Accesses (s.writeBack n v) l [] := by
  cases v with
  | none => exact (State.Accesses.refl s).mono (by simp) rfl
  | some v =>
    refine ⟨s.ar.set n v, s.dev, s.mem, s.draws, s.globalBus, s.localBus, s.outputs, rfl, id, fun i hi => ?_, fun _ => rfl,
      fun h => ⟨h, fun _ _ => rfl⟩⟩
    have : n.val ≠ i.val := fun e => hi (Fin.ext e ▸ h (by simp))
    simp only [Fin.getElem_fin]
    exact Vector.getElem_set_ne _ _ this

theorem indModifies_cases (i : Ind) : indModifies i = [] ∨ indModifies i = [.ar i.n] := by
  unfold indModifies
  split <;> simp

/-- Writing back the new value of an indirect operand computed in another state. -/
theorem State.writeBack_ind (s u : State) (i : Ind) (d : Word) :
    s.Accesses (s.writeBack i.n (u.indNew i d)) (indModifies i) [] := by
  refine s.writeBack_accesses _ _ fun h => ?_
  rcases indModifies_cases i with e | e
  · exact absurd (u.indNew_eq_none i d e) h
  · rw [e]; exact List.mem_cons_self

theorem State.indUpdate_accesses (s : State) (i : Ind) (d : Word) : s.Accesses (s.indUpdate i d) (indModifies i) [] :=
  s.writeBack_ind s i d

theorem State.indUpdate2_accesses (s : State) (i j : Ind) :
    s.Accesses (s.indUpdate2 i j) (indModifies i ++ indModifies j) [] :=
  ((s.writeBack_ind s j implied).trans ((s.writeBack j.n (s.indNew j implied)).writeBack_ind s i implied)).mono
    (fun r hr => by simpa [or_comm] using hr) rfl

theorem State.memUpdate_accesses (s : State) (m : Mem) : s.Accesses (s.memUpdate m) (memModifies m) [] := by
  cases m with
  | dir a => exact State.Accesses.refl s
  | ind i d => exact s.indUpdate_accesses i _

/-! ### Operand fetch -/

theorem State.fetch_accesses {s : State} {k : Access} {m : Mem} {v : Word} {t : State} (h : s.fetch k m = .ok v t) :
    s.Accesses t (memModifies m) [] :=
  ((s.memUpdate_accesses m).trans (memRead_accesses h)).mono (by simp) rfl

theorem State.fetchInd_accesses {s : State} {i : Ind} {v : Word} {t : State} (h : s.fetchInd i = .ok v t) :
    s.Accesses t (indModifies i) [] :=
  ((s.indUpdate_accesses i implied).trans (memRead_accesses h)).mono (by simp) rfl

theorem State.fetchInd2_accesses {s : State} {i j : Ind} {v : Word × Word} {t : State}
    (h : s.fetchInd2 i j = .ok v t) : s.Accesses t (indModifies i ++ indModifies j) [] := by
  obtain ⟨x, u, hx, h⟩ := Res.bind_eq_ok h
  obtain ⟨y, w, hy, h⟩ := Res.bind_eq_ok h
  cases h
  exact (((s.indUpdate2_accesses i j).trans (memRead_accesses hx)).trans (memRead_accesses hy)).mono (by simp) rfl

/-- Fetching a general source operand. -/
theorem State.source_accesses {ρ α : Type} {s : State} {reg : ρ → α} {word : Word → α} {imm : BitVec 16 → α}
    {o : Src ρ} {x : α} {t : State} (h : s.source reg word imm o = .ok x t) : s.Accesses t (srcModifies o) [] := by
  cases o with
  | reg r => cases h; exact State.Accesses.refl s
  | imm v => cases h; exact State.Accesses.refl s
  | mem m =>
    obtain ⟨w, u, hw, h⟩ := Res.bind_eq_ok h
    cases h
    exact State.fetch_accesses hw

/-- Fetching the operand pair of a three-operand instruction. -/
theorem State.operands3_accesses {ρ α : Type} {s : State} {reg : ρ → α} {word : Word → α} {imm : BitVec 8 → α}
    {o : Tri ρ} {x : α × α} {t : State} (h : s.operands3 reg word imm o = .ok x t) :
    s.Accesses t (triModifies o) [] := by
  cases o with
  | regReg a b => cases h; exact State.Accesses.refl s
  | regImm a k => cases h; exact State.Accesses.refl s
  | indReg i b =>
    obtain ⟨w, u, hw, h⟩ := Res.bind_eq_ok h
    cases h
    exact State.fetchInd_accesses hw
  | regInd a j =>
    obtain ⟨w, u, hw, h⟩ := Res.bind_eq_ok h
    cases h
    exact State.fetchInd_accesses hw
  | indInd i j =>
    obtain ⟨w, u, hw, h⟩ := Res.bind_eq_ok h
    cases h
    exact State.fetchInd2_accesses hw
  | regDisp a d =>
    obtain ⟨w, u, hw, h⟩ := Res.bind_eq_ok h
    cases h
    exact memRead_accesses hw
  | dispImm d k =>
    obtain ⟨w, u, hw, h⟩ := Res.bind_eq_ok h
    cases h
    exact memRead_accesses hw
  | dispDisp d e =>
    obtain ⟨w, u, hw, h⟩ := Res.bind_eq_ok h
    obtain ⟨y, v, hy, h⟩ := Res.bind_eq_ok h
    cases h
    exact ((memRead_accesses hw).trans (memRead_accesses hy)).mono (by simp) rfl

/-! ### Stores -/

theorem State.memAddr_eq_of_ar {s t : State} (m : Mem) (h : t.ar = s.ar) (hd : t.dp = s.dp) (h0 : t.ir0 = s.ir0)
    (h1 : t.ir1 = s.ir1) : t.memAddr m = s.memAddr m := by
  cases m with
  | dir a => simp only [State.memAddr, State.direct, hd]
  | ind i d =>
    have hx : ∀ x, t.index (d.setWidth 32) x = s.index (d.setWidth 32) x := fun x => by cases x <;> simp [State.index, *]
    simp only [State.memAddr, State.indAddr, h, hx]

/-- A store changes the auxiliary register of its operand and the word at its address. -/
theorem State.store_accesses {s : State} {k : Access} {m : Mem} {v : Word} {x : Unit} {t : State}
    (h : s.store k m v = .ok x t) : s.Accesses t (memModifies m) [s.memAddr m] :=
  ((s.memUpdate_accesses m).trans (memWrite_accesses h)).mono (by simp) rfl

/-- A parallel operation with a store, before `f` writes the result of the operation. -/
theorem State.withStore_accesses {s : State} {src2 dst2 : Ind} {v : Word} {f : Word → State → State} {x : Unit}
    {u : State} (h : s.withStore src2 dst2 v f = .ok x u) :
    ∃ w t, u = f w t ∧ s.Accesses t (indModifies dst2 ++ indModifies src2) [s.indAddr dst2 implied] := by
  obtain ⟨w, t, hw, h⟩ := Res.bind_eq_ok h
  obtain ⟨_, t', ht, h⟩ := Res.bind_eq_ok h
  cases h
  exact ⟨w, t', rfl,
    (((s.indUpdate2_accesses dst2 src2).trans (memRead_accesses hw)).trans (memWrite_accesses ht)).mono (by simp) rfl⟩

/-- Two parallel stores. -/
theorem State.storePair_accesses {s : State} {o : ParStores} {v w : Word} {x : Unit} {u : State}
    (h : s.storePair o v w = .ok x u) :
    s.Accesses u (indModifies o.dst1 ++ indModifies o.dst2) [s.indAddr o.dst1 implied, s.indAddr o.dst2 implied] := by
  obtain ⟨_, t, ht, h⟩ := Res.bind_eq_ok h
  exact (((s.indUpdate2_accesses o.dst1 o.dst2).trans (memWrite_accesses ht)).trans (memWrite_accesses h)).mono
    (by simp) rfl

/-! ### The stack -/

/-- A push: SP one up and the word at the new SP. -/
theorem State.push_accesses {s : State} {v : Word} {x : Unit} {t : State} (h : s.push v = .ok x t) :
    ({ s with sp := s.sp + 1 } : State).Accesses t [] [s.sp + 1] := memWrite_accesses h

/-- A pop: an access without effect on memory, then SP one down. -/
theorem State.pop_accesses {s : State} {v : Word} {t : State} (h : s.pop = .ok v t) :
    ∃ u, s.Accesses u [] [] ∧ t = { u with sp := u.sp - 1 } := by
  obtain ⟨w, u, hw, h⟩ := Res.bind_eq_ok h
  cases h
  exact ⟨u, memRead_accesses hw, rfl⟩

/-! ### The outcome -/

/-- A meaning that answers a next state has finished, or waits with nothing changed. -/
theorem State.run_eq_next {s : State} {f : State → Res Unit} {u : State} (h : s.run f = .next u) :
    (∃ x, f s.sequenced = .ok x u) ∨ ∃ w, f s.sequenced = .wait w ∧ u = { s with waiting := some w } := by
  unfold State.run State.finish at h
  split at h
  · cases h; exact .inl ⟨_, by assumption⟩
  · cases h; exact .inr ⟨_, by assumption, rfl⟩
  · cases h
  · cases h

/-- A meaning whose effect finishes answers the state it leaves. -/
theorem State.run_of_ok {s : State} {f : State → Res Unit} {x : Unit} {u : State} (h : f s.sequenced = .ok x u) :
    s.run f = .next u := by
  simp only [State.run, State.finish, h]

end Sys2Proof.Machine
end

