-- ==== Sys2Proof/Laws/Writes.lean ====
section
/-! SUPPORT. What writing results, flags and status does: the bits of `putBit` and `Flags.apply`, the registers each write
changes, and that every write keeps the parts of the invariant it touches. -/

namespace Sys2Proof.Machine

/-! ### Bits -/

/-- A bit of a word with one bit set or cleared. -/
theorem putBit_getLsbD {n : Nat} (v : BitVec n) (i j : Nat) (b : Bool) (h : i < n) :
    (putBit v i b).getLsbD j = if j = i then b else v.getLsbD j := by
  unfold putBit
  by_cases hj : j = i
  · subst hj
    cases b <;> simp [h]
  · cases b
    · by_cases hn : j < n
      · by_cases hl : j < i
        · simp [hj, hn, hl]
        · have : j - i ≠ 0 := by omega
          simp [hj, hn, hl, this]
      · simp [hj, hn, BitVec.getLsbD_of_ge v j (by omega)]
    · by_cases hn : j < n
      · by_cases hl : j < i
        · simp [hj, hn, hl]
        · have : j - i ≠ 0 := by omega
          simp [hj, hn, hl, this]
      · simp [hj, hn, BitVec.getLsbD_of_ge v j (by omega)]

/-- A bit of a merged word. -/
theorem merge_getLsbD {n : Nat} (m x y : BitVec n) (j : Nat) :
    (merge m x y).getLsbD j = if m.getLsbD j then x.getLsbD j else y.getLsbD j := by
  by_cases hn : j < n
  · simp only [merge, BitVec.getLsbD_or, BitVec.getLsbD_and, BitVec.getLsbD_not, hn, decide_true, Bool.true_and]
    cases m.getLsbD j <;> simp
  · have : ∀ v : BitVec n, v.getLsbD j = false := fun v => BitVec.getLsbD_of_ge v j (by omega)
    simp [this]

/-- Two words are equal under a mask exactly when every bit of the mask is. -/
theorem masked_zero_iff {n : Nat} (v m : BitVec n) :
    v &&& m = 0 ↔ ∀ j, m.getLsbD j = true → v.getLsbD j = false := by
  constructor
  · intro h j hj
    have := congrArg (fun x => x.getLsbD j) h
    simpa [hj] using this
  · intro h
    apply BitVec.eq_of_getLsbD_eq
    intro j hj
    cases hm : m.getLsbD j
    · simp [hm]
    · simp [h j hm]

/-- Changing a bit outside a mask keeps what the mask shows zero. -/
theorem putBit_masked {n : Nat} {v m : BitVec n} (h : v &&& m = 0) {i : Nat} (hi : i < n) (hm : m.getLsbD i = false)
    (b : Bool) : putBit v i b &&& m = 0 := by
  rw [masked_zero_iff] at h ⊢
  intro j hj
  rw [putBit_getLsbD _ _ _ _ hi]
  have : j ≠ i := fun e => by rw [e, hm] at hj; cases hj
  rw [if_neg this, h j hj]

/-! ### Flags -/

/-- The bits of ST after flags are written: C where the result gives one, V, Z, N, UF, the latches or-ed, the rest kept. -/
theorem Flags.apply_getLsbD (f : Flags) (st : Word) (j : Nat) :
    (f.apply st).getLsbD j =
      if j = 0 then f.c.getD (st.getLsbD 0) else if j = 1 then f.v else if j = 2 then f.z else if j = 3 then f.n
      else if j = 4 then f.uf else if j = 5 then st.getLsbD 5 || f.v else if j = 6 then st.getLsbD 6 || f.luf
      else st.getLsbD j := by
  simp only [Flags.apply]
  repeat rw [putBit_getLsbD _ _ _ _ (by decide)]
  by_cases h6 : j = 6
  · subst h6; simp
  by_cases h5 : j = 5
  · subst h5; simp
  by_cases h4 : j = 4
  · subst h4; simp
  by_cases h3 : j = 3
  · subst h3; simp
  by_cases h2 : j = 2
  · subst h2; simp
  by_cases h1 : j = 1
  · subst h1; simp
  by_cases h0 : j = 0
  · subst h0; simp
  simp [h0, h1, h2, h3, h4, h5, h6]

/-- Flags written keep the unwritable bits of ST 0. -/
theorem Flags.apply_masked (f : Flags) {st : Word} (h : st &&& ~~~stWritable = 0) : f.apply st &&& ~~~stWritable = 0 := by
  rw [masked_zero_iff] at h ⊢
  intro j hj
  have hl : 7 ≤ j := by
    by_contra hc
    have : j ∈ [0, 1, 2, 3, 4, 5, 6] := by simp; omega
    revert hj
    fin_cases this <;> decide
  rw [Flags.apply_getLsbD]
  simp only [show j ≠ 0 by omega, show j ≠ 1 by omega, show j ≠ 2 by omega, show j ≠ 3 by omega, show j ≠ 4 by omega,
    show j ≠ 5 by omega, show j ≠ 6 by omega, if_false]
  exact h j hj

/-! ### Registers -/

/-- An integer write changes one register. -/
theorem State.stored_put (s : State) (d r : Reg) (v : Word) (h : r ≠ d) : (s.put d v).stored r = s.stored r := by
  cases d with
  | r n =>
    cases r with
    | r m =>
      have : n.val ≠ m.val := fun e => h (congrArg Reg.r (Fin.ext e.symm))
      simp only [State.put, State.stored, Fin.getElem_fin]
      exact Vector.getElem_set_ne _ _ this
    | _ => rfl
  | ar n =>
    cases r with
    | ar m =>
      have : n.val ≠ m.val := fun e => h (congrArg Reg.ar (Fin.ext e.symm))
      simp only [State.put, State.stored, Fin.getElem_fin]
      rw [Vector.getElem_set_ne _ _ this]
    | _ => rfl
  | _ => cases r <;> first | rfl | exact absurd rfl h

/-- A 40-bit write changes one register. -/
theorem State.stored_putF (s : State) (n : FReg) (r : Reg) (v : Ext) (h : r ≠ .r n) :
    (s.putF n v).stored r = s.stored r := by
  cases r with
  | r m =>
    have : n.val ≠ m.val := fun e => h (congrArg Reg.r (Fin.ext e.symm))
    simp only [State.putF, State.stored, Fin.getElem_fin]
    exact Vector.getElem_set_ne _ _ this
  | _ => rfl

/-- Flags change no register but ST. -/
theorem State.stored_setFlags (s : State) (f : Flags) (r : Reg) (h : r ≠ .st) : (s.setFlags f).stored r = s.stored r := by
  cases r <;> first | rfl | exact absurd rfl h

/-- An integer result changes its destination and ST. -/
theorem State.stored_result (s : State) (d r : Reg) (x : Word × Flags) (h : r ≠ d) (hs : r ≠ .st) :
    (s.result d x).stored r = s.stored r := by
  unfold State.result
  rw [State.stored_put _ _ _ _ h]
  split
  · exact s.stored_setFlags _ _ hs
  · rfl

/-- A floating-point result changes its destination and ST. -/
theorem State.stored_resultF (s : State) (n : FReg) (r : Reg) (x : Ext × Flags) (h : r ≠ .r n) (hs : r ≠ .st) :
    (s.resultF n x).stored r = s.stored r := by
  unfold State.resultF
  rw [State.stored_putF _ _ _ _ h]
  exact s.stored_setFlags _ _ hs

/-- Operand accesses change no register but the listed auxiliary registers. -/
theorem State.Accesses.stored {s t : State} {l as} (h : s.Accesses t l as) {r : Reg} (hr : r ∉ l) :
    t.stored r = s.stored r := by
  obtain ⟨ar, d, m, n, _, _, _, rfl, _, ha, _⟩ := h
  cases r with
  | ar i => simp only [State.stored]; rw [ha i hr]
  | _ => rfl

/-- Sequencing changes no register but RM in ST, and RC under a repeat mode. -/
theorem State.sequenced_stored (s : State) {r : Reg} (hs : r ≠ .st) (hc : r = .rc → s.repeatMode = false) :
    s.sequenced.stored r = s.stored r := by
  by_cases h : r = .rc
  · subst h
    have hm := hc rfl
    unfold State.sequenced State.advance
    dsimp only
    have : State.repeatMode { s with draws := s.draws + 1, waiting := none } = false := hm
    split
    · rw [this]; rfl
    · unfold State.advanceSlot; split <;> rfl
  · obtain ⟨pc, rc, st, single, held, delay, e, _⟩ := s.sequenced_shape
    rw [e]
    cases r <;> first | rfl | exact absurd rfl hs | exact absurd rfl h

/-! ### The invariant under writes -/

/-- A write of ST stores no unwritable bit. -/
theorem State.writeSt_masked (s : State) (v : Word) : (s.writeSt v).st &&& ~~~stWritable = 0 := by
  simp [State.writeSt, BitVec.and_assoc]

/-- A write of IIF keeps bits 23–17 zero. -/
theorem State.writeIif_masked (s : State) (v : Word) : (s.writeIif v).iif &&& 0x00FE0000 = 0 := by
  simp only [State.writeIif]
  refine putBit_masked (putBit_masked (putBit_masked (putBit_masked ?_ (by decide) (by decide) _) (by decide) (by decide) _)
    (by decide) (by decide) _) (by decide) (by decide) _
  rw [masked_zero_iff]
  intro j hj
  have hl : j < 32 := by
    by_contra hc
    rw [BitVec.getLsbD_of_ge _ _ (by omega)] at hj
    cases hj
  have : ∀ k : Fin 32, (0x00FE0000 : Word).getLsbD k = true →
      (0xFF00FFFF : Word).getLsbD k = false ∧ (0x00010000 : Word).getLsbD k = false := by decide
  obtain ⟨h1, h2⟩ := this ⟨j, hl⟩ hj
  rw [merge_getLsbD, BitVec.getLsbD_and]
  dsimp only at h1 h2
  rw [h1, h2, if_neg (by decide), Bool.and_false]

/-- A write of a vector table pointer keeps it on a 512-word boundary. -/
theorem tableBase_masked (v : Word) : v &&& 0xFFFFFE00 &&& 0x1FF = 0 := by
  rw [BitVec.and_assoc]; simp

end Sys2Proof.Machine
end

