-- ==== Sys2Proof/Laws/Changes.lean ====
section
/-! SUPPORT. What an operation changes, said once: registers, status bits, memory words; and that it keeps the invariant. One
lemma for each shared operation, and composition. -/

namespace Sys2Proof.Machine

/-- From `s` to `t` at most the registers in `l`, the status bits in `bits` and the memory words in `as` have changed, and the
invariant is kept. Status and cache are left open where ST is among the registers. -/
structure State.Changes (s t : State) (l : List Reg) (bits : List Nat) (as : List Word) : Prop where
  regs : ∀ r, r ∉ l → r ≠ .st → t.stored r = s.stored r
  status : Reg.st ∉ l → ∀ b, b ∉ bits → t.st.getLsbD b = s.st.getLsbD b
  cache : Reg.st ∉ l → t.cache = s.cache
  memory : Memory.wf s.mem = true → Memory.wf t.mem = true ∧ ∀ k, coveredBy as k = false → Memory.get t.mem k = Memory.get s.mem k
  inv : s.Inv → t.Inv

theorem State.Changes.refl (s : State) : s.Changes s [] [] [] :=
  ⟨fun _ _ _ => rfl, fun _ _ _ => rfl, fun _ => rfl, fun h => ⟨h, fun _ _ => rfl⟩, id⟩

theorem State.Changes.trans {s t u : State} {l l' b b' as bs} (h : s.Changes t l b as) (g : t.Changes u l' b' bs) :
    s.Changes u (l ++ l') (b ++ b') (as ++ bs) := by
  refine ⟨fun r hr hs => ?_, fun hl i hi => ?_, fun hl => ?_, fun hm => ?_, fun hi => g.inv (h.inv hi)⟩
  · rw [List.mem_append, not_or] at hr
    exact (g.regs r hr.2 hs).trans (h.regs r hr.1 hs)
  · rw [List.mem_append, not_or] at hl hi
    exact (g.status hl.2 i hi.2).trans (h.status hl.1 i hi.1)
  · rw [List.mem_append, not_or] at hl
    exact (g.cache hl.2).trans (h.cache hl.1)
  · obtain ⟨w, o⟩ := h.memory hm
    obtain ⟨w', o'⟩ := g.memory w
    refine ⟨w', fun k hk => ?_⟩
    simp only [coveredBy, List.any_append, Bool.or_eq_false_iff] at hk
    exact (o' k hk.2).trans (o k hk.1)

/-- Larger lists claim less. -/
theorem State.Changes.mono {s t : State} {l l' b b' as bs} (h : s.Changes t l b as) (hl : ∀ r ∈ l, r ∈ l')
    (hb : ∀ i ∈ b, i ∈ b') (ha : ∀ a ∈ as, a ∈ bs) : s.Changes t l' b' bs := by
  refine ⟨fun r hr => h.regs r fun x => hr (hl r x), fun hs i hi => h.status (fun x => hs (hl _ x)) i fun x => hi (hb i x),
    fun hs => h.cache fun x => hs (hl _ x), fun hm => ?_, h.inv⟩
  obtain ⟨w, o⟩ := h.memory hm
  refine ⟨w, fun k hk => o k ?_⟩
  simp only [coveredBy, List.any_eq_false] at hk ⊢
  exact fun a x => hk a (ha a x)

/-- Operand accesses and stores. -/
theorem State.Accesses.changes {s t : State} {l as} (h : s.Accesses t l as) : s.Changes t l [] as := by
  refine ⟨fun r hr _ => h.stored hr, ?_, ?_, ?_, ?_⟩ <;> obtain ⟨ar, d, m, n, _, _, _, rfl, hd, _, _, hm⟩ := h
  · exact fun _ _ _ => rfl
  · exact fun _ => rfl
  · exact hm
  · exact fun ⟨a, b, c, e, f, g, i⟩ => ⟨(hm a).1, b, c, e, f, hd g, i⟩

/-- An update of fields that no list speaks of: the program counter, the delay slots, the repeat logic, the signals. -/
theorem State.Changes.of_eq {s t : State} (hs : ∀ r, t.stored r = s.stored r) (hc : t.cache = s.cache) (hm : t.mem = s.mem)
    (hi : t.ivtp = s.ivtp) (ht : t.tvtp = s.tvtp) (hd : t.dev = s.dev) : s.Changes t [] [] [] := by
  have est : t.st = s.st := by
    have := congrArg (fun x : Ext => x.setWidth 32) (hs .st)
    simpa [State.stored] using this
  have eiif : t.iif = s.iif := by
    have := congrArg (fun x : Ext => x.setWidth 32) (hs .iif)
    simpa [State.stored] using this
  refine ⟨fun r _ _ => hs r, fun _ b _ => by rw [est], fun _ => hc, fun h => ⟨hm ▸ h, fun _ _ => by rw [hm]⟩, fun h => ?_⟩
  unfold State.Inv at h ⊢
  rw [hm, hi, ht, est, eiif, hd, hc]
  exact h

theorem State.jump_changes (s : State) (a : Word) : s.Changes (s.jump a) [] [] [] :=
  State.Changes.of_eq (fun r => by cases r <;> rfl) rfl rfl rfl rfl rfl

theorem State.delayed_changes (s : State) (a : Word) (n : Bool) (k : DelayKind) : s.Changes (s.delayed a n k) [] [] [] :=
  State.Changes.of_eq (fun r => by cases r <;> rfl) rfl rfl rfl rfl rfl

theorem State.setLock_changes (s : State) (a : Word) (b : Bool) : s.Changes (s.setLock a b) [] [] [] := by
  unfold State.setLock
  split
  · split <;> exact State.Changes.of_eq (fun r => by cases r <;> rfl) rfl rfl rfl rfl rfl
  · exact State.Changes.refl s

theorem State.iackFall_changes (s : State) (a : Word) : s.Changes (s.iackFall a) [] [] [] := by
  unfold State.iackFall
  split
  · exact State.Changes.of_eq (fun r => by cases r <;> rfl) rfl rfl rfl rfl rfl
  · exact State.Changes.refl s

theorem State.iackRise_changes (s : State) (a : Word) : s.Changes (s.iackRise a) [] [] [] := by
  unfold State.iackRise
  split
  · exact State.Changes.of_eq (fun r => by cases r <;> rfl) rfl rfl rfl rfl rfl
  · exact State.Changes.refl s

/-- A change of ST alone that leaves the unwritable bits 0. -/
theorem State.Changes.of_st {s : State} {st : Word} {bits : List Nat} (h : ∀ b, b ∉ bits → st.getLsbD b = s.st.getLsbD b)
    (hm : s.st &&& ~~~stWritable = 0 → st &&& ~~~stWritable = 0) : s.Changes { s with st := st } [] bits [] := by
  refine ⟨fun r _ hr => ?_, fun _ => h, fun _ => rfl, fun hw => ⟨hw, fun _ _ => rfl⟩,
    fun ⟨a, b, c, e, f, g, i⟩ => ⟨a, b, c, hm e, f, g, i⟩⟩
  cases r <;> first | rfl | exact absurd rfl hr

/-- One status bit that a write can change. -/
theorem State.putSt_changes (s : State) (i : Nat) (b : Bool) (hi : i < 32) (hw : (~~~stWritable).getLsbD i = false) :
    s.Changes { s with st := putBit s.st i b } [] [i] [] := by
  refine State.Changes.of_st (fun j hj => ?_) fun h => putBit_masked h hi hw b
  rw [putBit_getLsbD _ _ _ _ hi, if_neg (by simpa using hj)]

/-- The flags a result may change: C where it gives one, V, Z, N, UF, LV where it may overflow, LUF where it may underflow. -/
def Flags.touched (f : Flags) : List Nat :=
  [1, 2, 3, 4] ++ (if f.c.isSome then [0] else []) ++ (if f.v then [5] else []) ++ (if f.luf then [6] else [])

theorem State.setFlags_changes (s : State) (f : Flags) : s.Changes (s.setFlags f) [] f.touched [] := by
  refine State.Changes.of_st (fun b hb => ?_) f.apply_masked
  simp only [Flags.touched, List.mem_append, not_or] at hb
  rw [Flags.apply_getLsbD]
  obtain ⟨⟨⟨h1, h2⟩, h3⟩, h4⟩ := hb
  by_cases h : b = 0
  · subst h
    cases hc : f.c
    · simp
    · simp [hc] at h2
  by_cases h' : b = 5
  · subst h'
    cases hv : f.v
    · simp
    · simp [hv] at h3
  by_cases h'' : b = 6
  · subst h''
    cases hl : f.luf
    · simp
    · simp [hl] at h4
  have n1 : b ≠ 1 := fun e => h1 (by simp [e])
  have n2 : b ≠ 2 := fun e => h1 (by simp [e])
  have n3 : b ≠ 3 := fun e => h1 (by simp [e])
  have n4 : b ≠ 4 := fun e => h1 (by simp [e])
  simp [h, h', h'', n1, n2, n3, n4]

/-- A permutation of the cache segments stays one when the cache is cleared. -/
theorem State.put_changes (s : State) (d : Reg) (v : Word) : s.Changes (s.put d v) [d] [] [] := by
  refine ⟨fun r hr _ => s.stored_put d r v (by simpa using hr), fun hs b _ => ?_, fun hs => ?_,
    fun h => ⟨by rw [State.put_mem]; exact h, fun _ _ => by rw [State.put_mem]⟩, fun ⟨a, b, c, e, f, g, i⟩ => ?_⟩
  · cases d <;> first | rfl | exact absurd List.mem_cons_self hs
  · cases d <;> first | rfl | exact absurd List.mem_cons_self hs
  · have perm : (s.put d v).cache.lru = s.cache.lru := by
      cases d <;> first | rfl | skip
      show (s.writeSt v).cache.lru = _
      unfold State.writeSt Cache.clear
      dsimp only
      split <;> rfl
    refine ⟨by rw [State.put_mem]; exact a, by rw [State.put_ivtp]; exact b, by rw [State.put_tvtp]; exact c, ?_, ?_,
      by rw [State.put_dev]; exact g, perm ▸ i⟩
    · cases d <;> first | exact e | exact s.writeSt_masked v
    · cases d <;> first | exact f | exact s.writeIif_masked v

theorem State.putF_changes (s : State) (n : FReg) (v : Ext) : s.Changes (s.putF n v) [.r n] [] [] :=
  ⟨fun r hr _ => s.stored_putF n r v (by simpa using hr), fun _ _ _ => rfl, fun _ => rfl, fun h => ⟨h, fun _ _ => rfl⟩, id⟩

theorem State.putX_changes (s : State) (x : XReg) (v : Word) : s.Changes (s.putX x v) [] [] [] := by
  refine ⟨fun r _ _ => by cases x <;> cases r <;> rfl, fun _ _ _ => by cases x <;> rfl, fun _ => by cases x <;> rfl,
    fun h => ⟨by cases x <;> exact h, fun _ _ => by cases x <;> rfl⟩, fun ⟨a, b, c, e, f, g, i⟩ => ?_⟩
  cases x
  · exact ⟨a, tableBase_masked v, c, e, f, g, i⟩
  · exact ⟨a, b, tableBase_masked v, e, f, g, i⟩

/-- An integer result: its destination and the flags it touches. -/
theorem State.result_changes (s : State) (d : Reg) (x : Word × Flags) : s.Changes (s.result d x) [d] x.2.touched [] := by
  unfold State.result
  split
  · exact ((s.setFlags_changes x.2).trans (State.put_changes _ d x.1)).mono (by simp) (by simp) (by simp)
  · exact (s.put_changes d x.1).mono (by simp) (by simp) (by simp)

/-- A floating-point result. -/
theorem State.resultF_changes (s : State) (n : FReg) (x : Ext × Flags) :
    s.Changes (s.resultF n x) [.r n] x.2.touched [] :=
  ((s.setFlags_changes x.2).trans (State.putF_changes _ n x.1)).mono (by simp) (by simp) (by simp)

theorem State.saveStatus_changes (s : State) : s.Changes s.saveStatus [] [9, 10, 13, 14] [] := by
  refine State.Changes.of_st (fun b hb => ?_) fun h => putBit_masked (putBit_masked (putBit_masked (putBit_masked h
    (by decide) (by decide) _) (by decide) (by decide) _) (by decide) (by decide) _) (by decide) (by decide) _
  simp only [List.mem_cons, List.not_mem_nil, or_false, not_or] at hb
  repeat rw [putBit_getLsbD _ _ _ _ (by decide)]
  simp [hb]

theorem State.restoreStatus_changes (s : State) : s.Changes s.restoreStatus [] [10, 13] [] := by
  refine State.Changes.of_st (fun b hb => ?_) fun h =>
    putBit_masked (putBit_masked h (by decide) (by decide) _) (by decide) (by decide) _
  simp only [List.mem_cons, List.not_mem_nil, or_false, not_or] at hb
  repeat rw [putBit_getLsbD _ _ _ _ (by decide)]
  simp [hb]

theorem State.decrement_changes (s : State) (n : Fin 8) : s.Changes (s.decrement n) [.ar n] [] [] :=
  s.put_changes (.ar n) _

/-- A repeat block: RS, RE and RM. -/
theorem State.repeatBlock_changes (s : State) (a b : Word) : s.Changes (s.repeatBlock a b) [.rs, .re] [8] [] :=
  (((s.put_changes .rs a).trans (State.put_changes _ .re b)).trans ((State.putSt_changes _ 8 true (by decide)
    (by decide)).trans (State.Changes.of_eq (t := s.repeatBlock a b) (fun r => by cases r <;> rfl) rfl rfl rfl rfl rfl))).mono
    (by simp) (by simp) (by simp)

theorem State.wait_changes (s : State) (p : Phase) : s.Changes (s.wait p) [] [13] [] :=
  ((State.putSt_changes s 13 true (by decide) (by decide)).trans (State.Changes.of_eq (t := s.wait p)
    (fun r => by cases r <;> rfl) rfl rfl rfl rfl rfl)).mono (by simp) (by simp) (by simp)

/-- A push: SP and the word above the old top. -/
theorem State.push_changes {s : State} {v : Word} {x : Unit} {t : State} (h : s.push v = .ok x t) :
    s.Changes t [.sp] [] [s.sp + 1] :=
  ((s.put_changes .sp (s.sp + 1)).trans (State.push_accesses h).changes).mono (by simp) (by simp) (by simp)

/-- A pop: SP. -/
theorem State.pop_changes {s : State} {v : Word} {t : State} (h : s.pop = .ok v t) : s.Changes t [.sp] [] [] := by
  obtain ⟨u, hu, rfl⟩ := State.pop_accesses h
  exact (hu.changes.trans (u.put_changes .sp (u.sp - 1))).mono (by simp) (by simp) (by simp)

/-- Taking a software trap. -/
theorem State.trap_changes {s : State} {n : BitVec 9} {a : Word} {x : Unit} {t : State} (h : s.trap n a = .ok x t) :
    s.Changes t [.sp] [9, 10, 13, 14] [s.sp + 1] := by
  obtain ⟨_, u, hu, h⟩ := Res.bind_eq_ok h
  obtain ⟨v, w, hw, h⟩ := Res.bind_eq_ok h
  cases h
  exact (((s.saveStatus_changes.trans (State.push_changes hu)).trans (memRead_accesses hw).changes).trans
    (w.jump_changes v)).mono (by simp) (by simp) (by simp)

/-- The pop and the status of a return from an interrupt or trap. -/
theorem State.exceptionReturn_changes {s : State} {v : Word} {t : State} (h : s.exceptionReturn = .ok v t) :
    s.Changes t [.sp] [10, 13] [] := by
  obtain ⟨w, u, hu, h⟩ := Res.bind_eq_ok h
  cases h
  exact ((State.pop_changes hu).trans u.restoreStatus_changes).mono (by simp) (by simp) (by simp)

/-- Sequencing: RC and RM under a repeat mode. -/
theorem State.sequenced_changes (s : State) :
    s.Changes s.sequenced (if s.repeatMode then [.rc] else []) (if s.repeatMode then [8] else []) [] := by
  obtain ⟨pc, rc, st, single, held, delay, e, hst⟩ := s.sequenced_shape
  refine ⟨fun r hr hs => s.sequenced_stored hs fun er => ?_, fun _ b hb => ?_, fun _ => by rw [State.sequenced_cache],
    fun h => ⟨by rw [State.sequenced_mem]; exact h, fun _ _ => by rw [State.sequenced_mem]⟩,
    fun ⟨a, b, c, f, g, i, j⟩ => ?_⟩
  · subst er
    cases hm : s.repeatMode
    · rfl
    · simp [hm] at hr
  · rw [e]
    rcases hst with rfl | ⟨hm, rfl⟩
    · rfl
    · simp only [hm, if_true, List.mem_singleton] at hb
      dsimp only
      rw [putBit_getLsbD _ _ _ _ (by decide), if_neg hb]
  · rw [e]
    refine ⟨a, b, c, ?_, g, i, j⟩
    rcases hst with rfl | ⟨_, rfl⟩
    · exact f
    · exact putBit_masked f (by decide) (by decide) _

end Sys2Proof.Machine
end

