-- ==== Sys2Proof/Laws/Devices.lean ====
section
/-! SUPPORT. The SoC devices at their RAM: every access of a controller keeps the canonical form of memory, and what it leaves
of the queues that the invariant bounds. -/

namespace Sys2Proof.Machine

/-! ### The Ethernet controller (66 R581, R582) -/

/-- A frame cut to a length is no longer than that, and no longer than it was. -/
theorem EthernetFrame.cut_bytes (f : EthernetFrame) (n : Nat) : (f.cut n).bytes ≤ n ∧ (f.cut n).bytes ≤ f.bytes :=
  ⟨Nat.min_le_right _ _, Nat.min_le_left _ _⟩

/-- The octets the MAC sends: those of the packet, padded to the length of Table 7.6, and four more where it appends a CRC (66
R572). -/
theorem ethernetFramed_length (mode : BitVec 4) (header : Nat) (l : List Byte) (h : header ≤ l.length) :
    (ethernetFramed mode header l).length
      = header + max (l.length - header) (ethernetPadTo (mode.extractLsb' 1 3) (ethernetTagged (l.drop header)))
        + if ethernetAppends mode then 4 else 0 := by
  simp only [ethernetFramed, List.length_append, List.length_take, List.length_drop, List.length_map, List.length_range]
  split <;> simp <;> omega

/-- An access of the transmit side writes at most the PacketSize word of its descriptor. -/
theorem Ethernet.txAccess_mem (e : Ethernet) (m : List Host.Cell) :
    (e.txAccess m).2 = m ∨ ∃ v, (e.txAccess m).2 = Memory.writeWord m (ethernetWord (e.txNext + 4)) v := by
  unfold Ethernet.txAccess
  split
  · dsimp only
    split <;> exact .inl rfl
  all_goals first | exact .inl rfl | exact .inr ⟨_, rfl⟩

/-- An access of the receive side writes at most one word of its RAM. -/
theorem Ethernet.rxAccess_mem (e : Ethernet) (m : List Host.Cell) :
    (e.rxAccess m).2 = m ∨ ∃ a v, (e.rxAccess m).2 = Memory.writeWord m (ethernetWord a) v := by
  unfold Ethernet.rxAccess
  split
  · dsimp only
    split <;> exact .inl rfl
  · exact .inl rfl
  · dsimp only
    split <;> exact .inr ⟨_, _, rfl⟩
  · exact .inl rfl

/-- An access of the controller writes at most one word of its RAM. -/
theorem Ethernet.access_mem (e : Ethernet) (m : List Host.Cell) :
    (e.access m).2 = m ∨ ∃ a v, (e.access m).2 = Memory.writeWord m (ethernetWord a) v := by
  unfold Ethernet.access
  split
  · exact (Ethernet.txAccess_mem _ m).imp id fun ⟨v, h⟩ => ⟨_, v, h⟩
  · split
    · exact Ethernet.rxAccess_mem _ m
    · exact .inl rfl

theorem Ethernet.access_wf (e : Ethernet) {m : List Host.Cell} (h : Memory.wf m = true) :
    Memory.wf (e.access m).2 = true := by
  obtain g | ⟨a, v, g⟩ := e.access_mem m <;> rw [g]
  · exact h
  · exact Memory.wf_writeWord h _ _

/-- A packet enters the receive FIFO only where it fits (66 R582). -/
theorem Ethernet.receive_rxWords {e : Ethernet} (h : e.rxWords ≤ 4096) (f : EthernetFrame) : (e.receive f).rxWords ≤ 4096 := by
  unfold Ethernet.receive
  dsimp only
  split
  · rename_i hr
    simp only [Bool.and_eq_true, decide_eq_true_eq] at hr
    simpa [Ethernet.rxWords] using hr.2
  · exact h

/-- An access adds nothing to the receive FIFO. -/
theorem Ethernet.access_rxWords (e : Ethernet) (m : List Host.Cell) : (e.access m).1.rxWords ≤ e.rxWords := by
  have keeps : ∀ d : Ethernet, d.rxFifo = e.rxFifo → (d.txAccess m).1.rxFifo = e.rxFifo := fun d h => by
    unfold Ethernet.txAccess
    split
    · dsimp only
      split <;> exact h
    all_goals exact h
  have drops : ∀ d : Ethernet, d.rxFifo = e.rxFifo →
      (d.rxAccess m).1.rxFifo = e.rxFifo ∨ (d.rxAccess m).1.rxFifo = e.rxFifo.tail := fun d h => by
    unfold Ethernet.rxAccess
    split
    · dsimp only
      split <;> exact .inl h
    · exact .inl h
    · dsimp only
      split
      · exact .inl h
      · exact .inr (congrArg List.tail h)
    · exact .inl h
  have tail : ((e.rxFifo.tail).map fun f => f.data.length).sum ≤ e.rxWords := by
    unfold Ethernet.rxWords
    cases e.rxFifo with
    | nil => exact Nat.le_refl _
    | cons f l =>
      rw [List.tail_cons, List.map_cons, List.sum_cons]
      exact Nat.le_add_left _ _
  unfold Ethernet.access
  split
  · rw [Ethernet.rxWords, keeps { e with rxLast := false } rfl]
    exact Nat.le_refl _
  · split
    · obtain g | g := drops { e with rxLast := true } rfl
      · rw [Ethernet.rxWords, g]
        exact Nat.le_refl _
      · rw [Ethernet.rxWords, g]
        exact tail
    · exact Nat.le_refl _

/-! ### The USB controller (66 R592–R594) -/

/-- An access for a transaction writes at most one word of the USB RAM. -/
theorem Usb.access_mem (u : Usb) (m : List Host.Cell) :
    (u.access m).2 = m ∨ ∃ i v, (u.access m).2 = Memory.writeWord m (usbCell i) v := by
  unfold Usb.access
  split
  · exact .inl rfl
  · split <;> first | exact .inl rfl | exact .inr ⟨_, _, rfl⟩

theorem Usb.access_wf (u : Usb) {m : List Host.Cell} (h : Memory.wf m = true) : Memory.wf (u.access m).2 = true := by
  obtain g | ⟨i, v, g⟩ := u.access_mem m <;> rw [g]
  · exact h
  · exact Memory.wf_writeWord h _ _

/-! ### The 1553 device (66 R608–R611) -/

theorem milWrite_wf {m : List Host.Cell} (h : Memory.wf m = true) (i : BitVec 12) (v : BitVec 16) :
    Memory.wf (milWrite m i v) = true := by
  unfold milWrite
  split
  · exact Memory.wf_writeWord h _ _
  · exact h

/-- An access of a job writes at most one cell. -/
theorem MilJob.access_mem (j : MilJob) (m : List Host.Cell) :
    (j.access m).mem = m ∨ ∃ i v, (j.access m).mem = milWrite m i v := by
  unfold MilJob.access
  split
  · exact .inl rfl
  · exact .inr ⟨_, _, rfl⟩
  · exact .inl rfl
  · exact .inl rfl

theorem MilJob.access_wf (j : MilJob) {m : List Host.Cell} (h : Memory.wf m = true) : Memory.wf (j.access m).mem = true := by
  obtain g | ⟨i, v, g⟩ := j.access_mem m <;> rw [g]
  · exact h
  · exact milWrite_wf h i v

theorem MilJob.replied_mem (j : MilJob) (b : MilBus) (now : Mil) (m : List Host.Cell) : (j.replied b now m).mem = m := by
  unfold MilJob.replied
  split <;> rfl

theorem Mil.heard_mem (m : Mil) (g : MilMessage) (c : List Host.Cell) : (m.heard g c).mem = c := rfl

/-- While the device is at a message it hears no other. -/
theorem State.milHear_busy {s : State} (g : MilMessage) (h : s.dev.milHearing = true) : s.milHear g = s := if_pos h

/-- While the device is at a message no command ends in loop-back. -/
theorem State.milEnd_busy {s : State} (b : MilBus) {j : MilJob} (hj : s.dev.milRun = some j) (hl : j.mil.loop = true)
    (h : s.dev.milHearing = true) : s.milEnd b = s := by
  simp [State.milEnd, hj, hl, h]

/-- No effect makes ISIO longer than eight words (66 R609). -/
theorem MilEffect.apply_isio (e : MilEffect) {m : Mil} (h : m.isio.length ≤ 8) : (e.apply m).isio.length ≤ 8 := by
  cases e with
  | queue v =>
    show (if m.isio.length < 8 then m.isio ++ [v] else m.isio).length ≤ 8
    split
    · rw [List.length_append, List.length_singleton]
      omega
    · exact h
  | _ => exact h

theorem Mil.effects_isio : ∀ (l : List MilEffect) {m : Mil}, m.isio.length ≤ 8 → (l.foldl MilEffect.apply m).isio.length ≤ 8
  | [], _, h => h
  | e :: t, _, h => Mil.effects_isio t (e.apply_isio h)

/-! ### The UART's receiver (66 R625) -/

/-- A break sets BI whatever the receiver FIFO holds, a full one too. -/
theorem Uart.accept_break (u : Uart) {c : RxChar} (h : c.bi = true) : (u.accept c).line.getLsbD 3 = true := by
  have b : (u.received c).lineErrors.getLsbD 3 = true := by simp [Uart.received, RxChar.lineErrors, h]
  unfold Uart.accept
  dsimp only
  split <;> simp [b]

/-- A character that finds the receiver FIFO full leaves it as it is and sets OE. -/
theorem Uart.accept_overrun (u : Uart) (c : RxChar) (h : uartRoom u.rx.length = false) :
    (u.accept c).rx = u.rx ∧ (u.accept c).line.getLsbD 0 = true := by
  unfold Uart.accept
  simp [h]

/-- TRBCW is answered with the built-in-test word, its code in bits 4–0, and changes nothing (66 R601, R611). -/
theorem Mil.modeCommand_testWord (m : Mil) (line : Bool) (cw : BitVec 16) (data : List (BitVec 16)) (h : cwCode cw = 19) :
    ∃ w : BitVec 16, w.extractLsb' 0 5 = m.bcwRt
      ∧ m.modeCommand line cw data = .done ⟨m, some (m.answer false false), [w]⟩ := by
  refine ⟨Config.milTestUpper m.bcwRt ++ m.bcwRt, ?_, by simp [Mil.modeCommand, h]⟩
  exact BitVec.extractLsb'_append_eq_right

end Sys2Proof.Machine
end

