-- ==== Sys2Proof/Laws/Execution.lean ====
section
/-! SUPPORT. What the acknowledge of an interrupt and the early read of an LDA can do. -/

namespace Sys2Proof.Machine

/-- Acknowledging a taken interrupt changes three fields of the interrupt controller at most: no pin is driven (60 R662). -/
theorem State.acknowledge_shape (s : State) (v : Nat) :
    ∃ claimed iif ackPending, s.acknowledge v = { s with claimed := claimed, iif := iif, ackPending := ackPending } := by
  unfold State.acknowledge
  dsimp only
  split <;> (try split) <;> exact ⟨_, _, _, rfl⟩

/-- A value read early for an LDA is the one its operand has on the state that the instruction in front leaves. -/
theorem State.readBehind_some {s : State} {i : Instr} {o : Src Reg} {x : Word} (h : s.readBehind i o = some x) :
    ∃ t u, exec i s = .next t ∧ t.waiting = none ∧ t.sequenced.sourceInt o = .ok x u := by
  unfold State.readBehind at h
  split at h
  · rename_i t ht
    split at h
    · cases h
    · rename_i hw
      split at h
      · rename_i y u hu
        cases h
        exact ⟨t, u, ht, by simpa using hw, hu⟩
      · cases h
  · cases h

end Sys2Proof.Machine
end

