-- ==== Sys2Proof/Laws/PerInstr.lean ====
section
/-! SUPPORT. Statements about every instruction, one lemma per constructor: the encoder writes the fixed bits of a row of
spec/opcode_table.json of the instruction's mnemonic. -/

namespace Sys2Proof.Laws

/-! ### Masking the encoding formats -/

theorem append_masked {a b : Nat} (x m : BitVec a) (y n : BitVec b) :
    (x ++ y) &&& (m ++ n) = (x &&& m) ++ (y &&& n) := by
  ext i hi
  simp only [BitVec.getElem_and, BitVec.getElem_append]
  split <;> rfl

theorem general_op (op : BitVec 6) (d : BitVec 5) (g : BitVec 2 × BitVec 16) :
    encGeneral op d g &&& 0xFF800000 = encGeneral op 0 (0, 0) := by
  show (0#3 ++ op ++ g.1 ++ d ++ g.2) &&& (BitVec.allOnes 3 ++ BitVec.allOnes 6 ++ 0#2 ++ 0#5 ++ 0#16) = _
  simp only [append_masked, BitVec.and_allOnes, BitVec.and_zero]; rfl

theorem general_g (op : BitVec 6) (d : BitVec 5) (g : BitVec 2 × BitVec 16) :
    encGeneral op d g &&& 0xFFE00000 = encGeneral op 0 (g.1, 0) := by
  show (0#3 ++ op ++ g.1 ++ d ++ g.2) &&& (BitVec.allOnes 3 ++ BitVec.allOnes 6 ++ BitVec.allOnes 2 ++ 0#5 ++ 0#16) = _
  simp only [append_masked, BitVec.and_allOnes, BitVec.and_zero]; rfl

theorem general_gd (op : BitVec 6) (d : BitVec 5) (g : BitVec 2 × BitVec 16) :
    encGeneral op d g &&& 0xFFFF0000 = encGeneral op d (g.1, 0) := by
  show (0#3 ++ op ++ g.1 ++ d ++ g.2)
    &&& (BitVec.allOnes 3 ++ BitVec.allOnes 6 ++ BitVec.allOnes 2 ++ BitVec.allOnes 5 ++ 0#16) = _
  simp only [append_masked, BitVec.and_allOnes, BitVec.and_zero]; rfl

theorem general_d (op : BitVec 6) (d : BitVec 5) (g : BitVec 2 × BitVec 16) :
    encGeneral op d g &&& 0xFF9F0000 = encGeneral op d (0, 0) := by
  show (0#3 ++ op ++ g.1 ++ d ++ g.2)
    &&& (BitVec.allOnes 3 ++ BitVec.allOnes 6 ++ 0#2 ++ BitVec.allOnes 5 ++ 0#16) = _
  simp only [append_masked, BitVec.and_allOnes, BitVec.and_zero]; rfl

theorem general_gs (op : BitVec 6) (d : BitVec 5) (g : BitVec 2 × BitVec 16) :
    encGeneral op d g &&& 0xFFE0FFFF = encGeneral op 0 g := by
  show (0#3 ++ op ++ g.1 ++ d ++ g.2)
    &&& (BitVec.allOnes 3 ++ BitVec.allOnes 6 ++ BitVec.allOnes 2 ++ 0#5 ++ BitVec.allOnes 16) = _
  simp only [append_masked, BitVec.and_allOnes, BitVec.and_zero]; rfl

theorem tri_op (op : BitVec 5) (d : BitVec 5) (f : BitVec 1 × BitVec 2 × BitVec 8 × BitVec 8) :
    encTri op d f &&& 0xFF800000 = encTri op 0 (f.1, 0, 0, 0) := by
  show (0b001#3 ++ f.1 ++ op ++ f.2.1 ++ d ++ f.2.2.1 ++ f.2.2.2)
    &&& (BitVec.allOnes 3 ++ BitVec.allOnes 1 ++ BitVec.allOnes 5 ++ 0#2 ++ 0#5 ++ 0#8 ++ 0#8) = _
  simp only [append_masked, BitVec.and_allOnes, BitVec.and_zero]; rfl

theorem tri_d (op : BitVec 5) (d : BitVec 5) (f : BitVec 1 × BitVec 2 × BitVec 8 × BitVec 8) :
    encTri op d f &&& 0xFF9F0000 = encTri op d (f.1, 0, 0, 0) := by
  show (0b001#3 ++ f.1 ++ op ++ f.2.1 ++ d ++ f.2.2.1 ++ f.2.2.2)
    &&& (BitVec.allOnes 3 ++ BitVec.allOnes 1 ++ BitVec.allOnes 5 ++ 0#2 ++ BitVec.allOnes 5 ++ 0#8 ++ 0#8) = _
  simp only [append_masked, BitVec.and_allOnes, BitVec.and_zero]; rfl

theorem condLoad_op (k : BitVec 1) (c : Cond) (d : BitVec 5) (g : BitVec 2 × BitVec 16) :
    encCondLoad k c d g &&& 0xF0000000 = 0b010#3 ++ k ++ 0#28 := by
  show (0b010#3 ++ k ++ codeOfCond c ++ g.1 ++ d ++ g.2)
    &&& (BitVec.allOnes 3 ++ BitVec.allOnes 1 ++ 0#5 ++ 0#2 ++ 0#5 ++ 0#16) = (0b010#3 ++ k) ++ (0#5 ++ 0#2 ++ 0#5 ++ 0#16)
  simp only [append_masked, BitVec.and_allOnes, BitVec.and_zero]
  revert k; decide

theorem byte_op (f : BitVec 6) (d : BitVec 5) (g : BitVec 2 × BitVec 16) (m : BitVec 6) :
    encByte f d g &&& (BitVec.allOnes 3 ++ m ++ 0#2 ++ 0#5 ++ 0#16) = 0b101#3 ++ (f &&& m) ++ 0#2 ++ 0#5 ++ 0#16 := by
  show (0b101#3 ++ f ++ g.1 ++ d ++ g.2) &&& (BitVec.allOnes 3 ++ m ++ 0#2 ++ 0#5 ++ 0#16) = _
  simp only [append_masked, BitVec.and_allOnes, BitVec.and_zero]

theorem long_op (op : BitVec 5) (d : BitVec 24) : encLong op d &&& 0xFF000000 = encLong op 0 := by
  show (0b011#3 ++ op ++ d) &&& (BitVec.allOnes 3 ++ BitVec.allOnes 5 ++ 0#24) = _
  simp only [append_masked, BitVec.and_allOnes, BitVec.and_zero]; rfl

theorem branch_op (k : BitVec 1) (f : BitVec 4) (c : Cond) (t : BitVec 1 × BitVec 16) :
    encBranch k f c t &&& 0xFDE00000 = 0b01101#5 ++ k ++ 0#1 ++ f ++ 0#5 ++ 0#16 := by
  show (0b01101#5 ++ k ++ t.1 ++ f ++ codeOfCond c ++ t.2)
    &&& (BitVec.allOnes 5 ++ BitVec.allOnes 1 ++ 0#1 ++ BitVec.allOnes 4 ++ 0#5 ++ 0#16) = _
  simp only [append_masked, BitVec.and_allOnes, BitVec.and_zero]

theorem decrement_op (k : BitVec 1) (n : BitVec 3) (f : BitVec 1) (c : Cond) (t : BitVec 1 × BitVec 16) :
    encBranch k (n ++ f) c t &&& 0xFC200000 = 0b01101#5 ++ k ++ 0#1 ++ (0#3 ++ f) ++ 0#5 ++ 0#16 := by
  show (0b01101#5 ++ k ++ t.1 ++ (n ++ f) ++ codeOfCond c ++ t.2)
    &&& (BitVec.allOnes 5 ++ BitVec.allOnes 1 ++ 0#1 ++ (0#3 ++ BitVec.allOnes 1) ++ 0#5 ++ 0#16) = _
  simp only [append_masked, BitVec.and_allOnes, BitVec.and_zero]

theorem call_op (f : BitVec 4) (c : Cond) (t : BitVec 1 × BitVec 16) :
    encCall f c t &&& 0xFDE00000 = 0b011100#6 ++ 0#1 ++ f ++ 0#5 ++ 0#16 := by
  show (0b011100#6 ++ t.1 ++ f ++ codeOfCond c ++ t.2)
    &&& (BitVec.allOnes 6 ++ 0#1 ++ BitVec.allOnes 4 ++ 0#5 ++ 0#16) = _
  simp only [append_masked, BitVec.and_allOnes, BitVec.and_zero]

theorem trap_op (f c : BitVec 5) (n : BitVec 9) : encTrap f c (0#7 ++ n) &&& 0xFFE0FE00 = encTrap f 0 0 := by
  show (0b011101#6 ++ f ++ c ++ (0#7 ++ n))
    &&& (BitVec.allOnes 6 ++ BitVec.allOnes 5 ++ 0#5 ++ (BitVec.allOnes 7 ++ 0#9)) = _
  simp only [append_masked, BitVec.and_allOnes, BitVec.and_zero]; rfl

theorem expansion_op (f c n : BitVec 5) : encTrap f c (0#11 ++ n) &&& 0xFFE0FFE0 = encTrap f 0 0 := by
  show (0b011101#6 ++ f ++ c ++ (0#11 ++ n))
    &&& (BitVec.allOnes 6 ++ BitVec.allOnes 5 ++ 0#5 ++ (BitVec.allOnes 11 ++ 0#5)) = _
  simp only [append_masked, BitVec.and_allOnes, BitVec.and_zero]; rfl

theorem return_op (f : BitVec 6) (c : BitVec 5) (s : BitVec 16) : encReturn f c s &&& 0xFFE0FFFF = encReturn f 0 s := by
  show (0b01111#5 ++ f ++ c ++ s) &&& (BitVec.allOnes 5 ++ BitVec.allOnes 6 ++ 0#5 ++ BitVec.allOnes 16) = _
  simp only [append_masked, BitVec.and_allOnes, BitVec.and_zero]; rfl

theorem repeat_op (f : BitVec 6) (c n : BitVec 5) : encReturn f c (0#11 ++ n) &&& 0xFFFFFFE0 = encReturn f c 0 := by
  show (0b01111#5 ++ f ++ c ++ (0#11 ++ n))
    &&& (BitVec.allOnes 5 ++ BitVec.allOnes 6 ++ BitVec.allOnes 5 ++ (BitVec.allOnes 11 ++ 0#5)) = _
  simp only [append_masked, BitVec.and_allOnes, BitVec.and_zero]; rfl

theorem mulAdd_op (op : BitVec 4) (o : MulAdd) : encMulAdd op o &&& 0xFC000000 = 0b10#2 ++ op ++ 0#26 := by
  show (0b10#2 ++ op ++ o.p ++ BitVec.ofBool o.d1 ++ BitVec.ofBool o.d2 ++ BitVec.ofFin (w := 3) o.src1
    ++ BitVec.ofFin (w := 3) o.src2 ++ bitsOfInd o.src3 ++ bitsOfInd o.src4)
    &&& (BitVec.allOnes 2 ++ BitVec.allOnes 4 ++ 0#2 ++ 0#1 ++ 0#1 ++ 0#3 ++ 0#3 ++ 0#8 ++ 0#8) = _
  simp only [append_masked, BitVec.and_allOnes, BitVec.and_zero]
  revert op; decide

/-- The masks of the parallel format: the operation, and the register fields that must be zero. -/
theorem parallel_op (op : BitVec 5) (p q r : PReg) (e b : Ind) (m n : BitVec 3) :
    encParallel op p q r e b &&& (BitVec.allOnes 2 ++ BitVec.allOnes 5 ++ 0#3 ++ m ++ n ++ 0#8 ++ 0#8)
      = 0b11#2 ++ op ++ 0#3 ++ (BitVec.ofFin (w := 3) q &&& m) ++ (BitVec.ofFin (w := 3) r &&& n) ++ 0#8 ++ 0#8 := by
  show (0b11#2 ++ op ++ BitVec.ofFin (w := 3) p ++ BitVec.ofFin (w := 3) q ++ BitVec.ofFin (w := 3) r
    ++ bitsOfInd e ++ bitsOfInd b) &&& (BitVec.allOnes 2 ++ BitVec.allOnes 5 ++ 0#3 ++ m ++ n ++ 0#8 ++ 0#8) = _
  simp only [append_masked, BitVec.and_allOnes, BitVec.and_zero]

namespace OpcodeRow

/-- The rows of spec/opcode_table.json of an instruction's mnemonic, as mask and match. -/
def rows : Instr → List (Word × Word)
  | .lda .. => [(0xFF800000, 0x1E800000)]
  | .lde .. => [(0xFF800000, 0x06800000)]
  | .ldep .. => [(0xFFE0FFE0, 0x76000000)]
  | .ldf .. => [(0xFF800000, 0x07000000)]
  | .ldfCond .. => [(0xF0000000, 0x40000000)]
  | .ldhi .. => [(0xFFE00000, 0x1FE00000)]
  | .ldi .. => [(0xFF800000, 0x08000000)]
  | .ldiCond .. => [(0xF0000000, 0x50000000)]
  | .ldm .. => [(0xFF800000, 0x09000000)]
  | .ldp .. => [(0xFFFF0000, 0x08700000)]
  | .ldpe .. => [(0xFFE0FFE0, 0x76800000)]
  | .ldpk .. => [(0xFFFF0000, 0x1F700000)]
  | .pop .. => [(0xFFE0FFFF, 0x0E200000)]
  | .popf .. => [(0xFFE0FFFF, 0x0EA00000)]
  | .push .. => [(0xFFE0FFFF, 0x0F200000)]
  | .pushf .. => [(0xFFE0FFFF, 0x0FA00000)]
  | .stf .. => [(0xFFE00000, 0x14200000), (0xFFE00000, 0x14400000)]
  | .sti .. => [(0xFFE00000, 0x15200000), (0xFFE00000, 0x15400000)]
  | .stik .. => [(0xFFE00000, 0x15000000), (0xFFE00000, 0x15600000)]
  | .absf .. => [(0xFF800000, 0x00000000)]
  | .absi .. => [(0xFF800000, 0x00800000)]
  | .addc .. => [(0xFF800000, 0x01000000)]
  | .addf .. => [(0xFF800000, 0x01800000)]
  | .addi .. => [(0xFF800000, 0x02000000)]
  | .and .. => [(0xFF800000, 0x02800000)]
  | .andn .. => [(0xFF800000, 0x03000000)]
  | .ash .. => [(0xFF800000, 0x03800000)]
  | .cmpf .. => [(0xFF800000, 0x04000000)]
  | .cmpi .. => [(0xFF800000, 0x04800000)]
  | .fix .. => [(0xFF800000, 0x05000000)]
  | .float .. => [(0xFF800000, 0x05800000)]
  | .frieee .. => [(0xFF800000, 0x1C000000)]
  | .lb .. => [(0xFE000000, 0xB0000000)]
  | .lbu .. => [(0xFE000000, 0xB2000000)]
  | .lh .. => [(0xFF000000, 0xBA000000)]
  | .lhu .. => [(0xFF000000, 0xBB000000)]
  | .lsh .. => [(0xFF800000, 0x09800000)]
  | .lwl .. => [(0xFE000000, 0xB4000000)]
  | .lwr .. => [(0xFE000000, 0xB6000000)]
  | .mb .. => [(0xFE000000, 0xB8000000)]
  | .mh .. => [(0xFF000000, 0xBC000000)]
  | .mpyf .. => [(0xFF800000, 0x0A000000)]
  | .mpyi .. => [(0xFF800000, 0x0A800000)]
  | .mpyshi .. => [(0xFF800000, 0x1D800000)]
  | .mpyuhi .. => [(0xFF800000, 0x1E000000)]
  | .negb .. => [(0xFF800000, 0x0B000000)]
  | .negf .. => [(0xFF800000, 0x0B800000)]
  | .negi .. => [(0xFF800000, 0x0C000000)]
  | .norm .. => [(0xFF800000, 0x0D000000)]
  | .not .. => [(0xFF800000, 0x0D800000)]
  | .or .. => [(0xFF800000, 0x10000000)]
  | .rcpf .. => [(0xFF800000, 0x1D000000)]
  | .rnd .. => [(0xFF800000, 0x11000000)]
  | .rol .. => [(0xFFE00000, 0x11E00000)]
  | .rolc .. => [(0xFFE00000, 0x12600000)]
  | .ror .. => [(0xFFE00000, 0x12E00000)]
  | .rorc .. => [(0xFFE00000, 0x13600000)]
  | .rsqrf .. => [(0xFF800000, 0x1C800000)]
  | .subb .. => [(0xFF800000, 0x16800000)]
  | .subc .. => [(0xFF800000, 0x17000000)]
  | .subf .. => [(0xFF800000, 0x17800000)]
  | .subi .. => [(0xFF800000, 0x18000000)]
  | .subrb .. => [(0xFF800000, 0x18800000)]
  | .subrf .. => [(0xFF800000, 0x19000000)]
  | .subri .. => [(0xFF800000, 0x19800000)]
  | .toieee .. => [(0xFF800000, 0x1B800000)]
  | .tstb .. => [(0xFF800000, 0x1A000000)]
  | .xor .. => [(0xFF800000, 0x1A800000)]
  | .addc3 .. => [(0xFF800000, 0x20000000), (0xFF800000, 0x30000000)]
  | .addf3 .. => [(0xFF800000, 0x20800000), (0xFF800000, 0x30800000)]
  | .addi3 .. => [(0xFF800000, 0x21000000), (0xFF800000, 0x31000000)]
  | .and3 .. => [(0xFF800000, 0x21800000), (0xFF800000, 0x31800000)]
  | .andn3 .. => [(0xFF800000, 0x22000000), (0xFF800000, 0x32000000)]
  | .ash3 .. => [(0xFF800000, 0x22800000), (0xFF800000, 0x32800000)]
  | .cmpf3 .. => [(0xFF9F0000, 0x23000000), (0xFF9F0000, 0x33000000)]
  | .cmpi3 .. => [(0xFF9F0000, 0x23800000), (0xFF9F0000, 0x33800000)]
  | .lsh3 .. => [(0xFF800000, 0x24000000), (0xFF800000, 0x34000000)]
  | .mpyf3 .. => [(0xFF800000, 0x24800000), (0xFF800000, 0x34800000)]
  | .mpyi3 .. => [(0xFF800000, 0x25000000), (0xFF800000, 0x35000000)]
  | .mpyshi3 .. => [(0xFF800000, 0x28800000), (0xFF800000, 0x38800000)]
  | .mpyuhi3 .. => [(0xFF800000, 0x29000000), (0xFF800000, 0x39000000)]
  | .or3 .. => [(0xFF800000, 0x25800000), (0xFF800000, 0x35800000)]
  | .subb3 .. => [(0xFF800000, 0x26000000), (0xFF800000, 0x36000000)]
  | .subf3 .. => [(0xFF800000, 0x26800000), (0xFF800000, 0x36800000)]
  | .subi3 .. => [(0xFF800000, 0x27000000), (0xFF800000, 0x37000000)]
  | .tstb3 .. => [(0xFF9F0000, 0x27800000), (0xFF9F0000, 0x37800000)]
  | .xor3 .. => [(0xFF800000, 0x28000000), (0xFF800000, 0x38000000)]
  | .bCond .. => [(0xFDE00000, 0x68000000)]
  | .bCondAf .. => [(0xFDE00000, 0x68A00000)]
  | .bCondAt .. => [(0xFDE00000, 0x68600000)]
  | .bCondD .. => [(0xFDE00000, 0x68200000)]
  | .br .. => [(0xFF000000, 0x60000000)]
  | .brd .. => [(0xFF000000, 0x61000000)]
  | .call .. => [(0xFF000000, 0x62000000)]
  | .callCond .. => [(0xFDE00000, 0x70000000)]
  | .dbCond .. => [(0xFC200000, 0x6C000000)]
  | .dbCondD .. => [(0xFC200000, 0x6C200000)]
  | .iack .. => [(0xFFFF0000, 0x1B200000), (0xFFFF0000, 0x1B400000)]
  | .idle => [(0xFFFFFFFF, 0x06000000)]
  | .idle2 => [(0xFFFFFFFF, 0x06000001)]
  | .laj .. => [(0xFF000000, 0x63000000)]
  | .lajCond .. => [(0xFDE00000, 0x70200000)]
  | .latCond .. => [(0xFFE0FE00, 0x74800000)]
  | .nop .. => [(0xFF9F0000, 0x0C800000)]
  | .retiCond .. => [(0xFFE0FFFF, 0x78000000)]
  | .retiCondD .. => [(0xFFE0FFFF, 0x78200000)]
  | .retsCond .. => [(0xFFE0FFFF, 0x78800000)]
  | .trapCond .. => [(0xFFE0FE00, 0x74000000)]
  | .swi => [(0xFFFFFFFF, 0x66000000)]
  | .rptb .. => [(0xFF000000, 0x64000000), (0xFFFFFFE0, 0x79000000)]
  | .rptbd .. => [(0xFF000000, 0x65000000), (0xFFFFFFE0, 0x79800000)]
  | .rpts .. => [(0xFF9F0000, 0x139B0000)]
  | .ldfi .. => [(0xFFE00000, 0x07A00000), (0xFFE00000, 0x07C00000)]
  | .ldii .. => [(0xFFE00000, 0x08A00000), (0xFFE00000, 0x08C00000)]
  | .sigi .. => [(0xFFE00000, 0x16200000), (0xFFE00000, 0x16400000)]
  | .stfi .. => [(0xFFE00000, 0x14A00000), (0xFFE00000, 0x14C00000)]
  | .stii .. => [(0xFFE00000, 0x15A00000), (0xFFE00000, 0x15C00000)]
  | .absfStf .. => [(0xFE380000, 0xC8000000)]
  | .absiSti .. => [(0xFE380000, 0xCA000000)]
  | .addf3Stf .. => [(0xFE000000, 0xCC000000)]
  | .addi3Sti .. => [(0xFE000000, 0xCE000000)]
  | .and3Sti .. => [(0xFE000000, 0xD0000000)]
  | .ash3Sti .. => [(0xFE000000, 0xD2000000)]
  | .fixSti .. => [(0xFE380000, 0xD4000000)]
  | .floatStf .. => [(0xFE380000, 0xD6000000)]
  | .frieeeStf .. => [(0xFE380000, 0xF2000000)]
  | .ldfLdf .. => [(0xFE070000, 0xC4000000)]
  | .ldfStf .. => [(0xFE380000, 0xD8000000)]
  | .ldiLdi .. => [(0xFE070000, 0xC6000000)]
  | .ldiSti .. => [(0xFE380000, 0xDA000000)]
  | .lsh3Sti .. => [(0xFE000000, 0xDC000000)]
  | .mpyf3Addf3 .. => [(0xFC000000, 0x80000000)]
  | .mpyf3Stf .. => [(0xFE000000, 0xDE000000)]
  | .mpyf3Subf3 .. => [(0xFC000000, 0x84000000)]
  | .mpyi3Addi3 .. => [(0xFC000000, 0x88000000)]
  | .mpyi3Sti .. => [(0xFE000000, 0xE0000000)]
  | .mpyi3Subi3 .. => [(0xFC000000, 0x8C000000)]
  | .negfStf .. => [(0xFE380000, 0xE2000000)]
  | .negiSti .. => [(0xFE380000, 0xE4000000)]
  | .notSti .. => [(0xFE380000, 0xE6000000)]
  | .or3Sti .. => [(0xFE000000, 0xE8000000)]
  | .stfStf .. => [(0xFE380000, 0xC0000000)]
  | .stiSti .. => [(0xFE380000, 0xC2000000)]
  | .subf3Stf .. => [(0xFE000000, 0xEA000000)]
  | .subi3Sti .. => [(0xFE000000, 0xEC000000)]
  | .toieeeStf .. => [(0xFE380000, 0xF0000000)]
  | .xor3Sti .. => [(0xFE000000, 0xEE000000)]

/-- The encoder writes the fixed bits of one of the rows. -/
def Statement (i : Instr) : Prop := ∃ r ∈ rows i, encode i &&& r.1 = r.2

theorem first {i : Instr} {r : Word × Word} {t : List (Word × Word)} (h : rows i = r :: t) (e : encode i &&& r.1 = r.2) :
    Statement i := ⟨r, h ▸ List.mem_cons_self, e⟩

theorem second {i : Instr} {q r : Word × Word} {t : List (Word × Word)} (h : rows i = q :: r :: t)
    (e : encode i &&& r.1 = r.2) : Statement i := ⟨r, h ▸ List.mem_cons_of_mem _ List.mem_cons_self, e⟩

theorem lda (dst : Reg) (src : Src Reg) : Statement (.lda dst src) := first rfl ((general_op ..).trans (by decide))

theorem lde (dst : FReg) (src : Src FReg) : Statement (.lde dst src) := first rfl ((general_op ..).trans (by decide))

theorem ldep (dst : Reg) (src : XReg) : Statement (.ldep dst src) := first rfl ((expansion_op ..).trans (by decide))

theorem ldf (dst : FReg) (src : Src FReg) : Statement (.ldf dst src) := first rfl ((general_op ..).trans (by decide))

theorem ldfCond (c : Cond) (dst : FReg) (src : Src FReg) : Statement (.ldfCond c dst src) := first rfl ((condLoad_op ..).trans (by decide))

theorem ldhi (dst : Reg) (v : BitVec 16) : Statement (.ldhi dst v) := first rfl ((general_g ..).trans (by dsimp only; decide))

theorem ldi (dst : Reg) (src : Src Reg) : Statement (.ldi dst src) := first rfl ((general_op ..).trans (by decide))

theorem ldiCond (c : Cond) (dst : Reg) (src : Src Reg) : Statement (.ldiCond c dst src) := first rfl ((condLoad_op ..).trans (by decide))

theorem ldm (dst : FReg) (src : Src FReg) : Statement (.ldm dst src) := first rfl ((general_op ..).trans (by decide))

theorem ldp (v : BitVec 16) : Statement (.ldp v) := first rfl ((general_gd ..).trans (by dsimp only; decide))

theorem ldpe (dst : XReg) (src : Reg) : Statement (.ldpe dst src) := first rfl ((expansion_op ..).trans (by decide))

theorem ldpk (v : BitVec 16) : Statement (.ldpk v) := first rfl ((general_gd ..).trans (by dsimp only; decide))

theorem pop (dst : Reg) : Statement (.pop dst) := first rfl ((general_gs ..).trans (by decide))

theorem popf (dst : FReg) : Statement (.popf dst) := first rfl ((general_gs ..).trans (by decide))

theorem push (src : Reg) : Statement (.push src) := first rfl ((general_gs ..).trans (by decide))

theorem pushf (src : FReg) : Statement (.pushf src) := first rfl ((general_gs ..).trans (by decide))

theorem stf (src : FReg) (dst : Mem) : Statement (.stf src dst) := by
  cases dst with
  | dir a => exact first rfl ((general_g ..).trans (by dsimp only [fieldOfMem]; decide))
  | ind i d => exact second rfl ((general_g ..).trans (by dsimp only [fieldOfMem]; decide))

theorem sti (src : Reg) (dst : Mem) : Statement (.sti src dst) := by
  cases dst with
  | dir a => exact first rfl ((general_g ..).trans (by dsimp only [fieldOfMem]; decide))
  | ind i d => exact second rfl ((general_g ..).trans (by dsimp only [fieldOfMem]; decide))

theorem stik (k : BitVec 5) (dst : Mem) : Statement (.stik k dst) := by
  cases dst with
  | dir a => exact first rfl ((general_g ..).trans (by dsimp only [fieldOfStik]; decide))
  | ind i d => exact second rfl ((general_g ..).trans (by dsimp only [fieldOfStik]; decide))

theorem absf (dst : FReg) (src : Src FReg) : Statement (.absf dst src) := first rfl ((general_op ..).trans (by decide))

theorem absi (dst : Reg) (src : Src Reg) : Statement (.absi dst src) := first rfl ((general_op ..).trans (by decide))

theorem addc (dst : Reg) (src : Src Reg) : Statement (.addc dst src) := first rfl ((general_op ..).trans (by decide))

theorem addf (dst : FReg) (src : Src FReg) : Statement (.addf dst src) := first rfl ((general_op ..).trans (by decide))

theorem addi (dst : Reg) (src : Src Reg) : Statement (.addi dst src) := first rfl ((general_op ..).trans (by decide))

theorem and (dst : Reg) (src : Src Reg) : Statement (.and dst src) := first rfl ((general_op ..).trans (by decide))

theorem andn (dst : Reg) (src : Src Reg) : Statement (.andn dst src) := first rfl ((general_op ..).trans (by decide))

theorem ash (dst : Reg) (src : Src Reg) : Statement (.ash dst src) := first rfl ((general_op ..).trans (by decide))

theorem cmpf (dst : FReg) (src : Src FReg) : Statement (.cmpf dst src) := first rfl ((general_op ..).trans (by decide))

theorem cmpi (dst : Reg) (src : Src Reg) : Statement (.cmpi dst src) := first rfl ((general_op ..).trans (by decide))

theorem fix (dst : Reg) (src : Src FReg) : Statement (.fix dst src) := first rfl ((general_op ..).trans (by decide))

theorem float (dst : FReg) (src : Src FReg) : Statement (.float dst src) := first rfl ((general_op ..).trans (by decide))

theorem frieee (dst : FReg) (src : Mem) : Statement (.frieee dst src) := first rfl ((general_op ..).trans (by decide))

theorem lb (b : BitVec 2) (dst : Reg) (src : Src Reg) : Statement (.lb b dst src) := by
  refine first rfl ((byte_op _ _ _ 0b111100#6).trans ?_)
  revert b; decide

theorem lbu (b : BitVec 2) (dst : Reg) (src : Src Reg) : Statement (.lbu b dst src) := by
  refine first rfl ((byte_op _ _ _ 0b111100#6).trans ?_)
  revert b; decide

theorem lh (h : BitVec 1) (dst : Reg) (src : Src Reg) : Statement (.lh h dst src) := by
  refine first rfl ((byte_op _ _ _ 0b111110#6).trans ?_)
  revert h; decide

theorem lhu (h : BitVec 1) (dst : Reg) (src : Src Reg) : Statement (.lhu h dst src) := by
  refine first rfl ((byte_op _ _ _ 0b111110#6).trans ?_)
  revert h; decide

theorem lsh (dst : Reg) (src : Src Reg) : Statement (.lsh dst src) := first rfl ((general_op ..).trans (by decide))

theorem lwl (b : BitVec 2) (dst : Reg) (src : Src Reg) : Statement (.lwl b dst src) := by
  refine first rfl ((byte_op _ _ _ 0b111100#6).trans ?_)
  revert b; decide

theorem lwr (b : BitVec 2) (dst : Reg) (src : Src Reg) : Statement (.lwr b dst src) := by
  refine first rfl ((byte_op _ _ _ 0b111100#6).trans ?_)
  revert b; decide

theorem mb (b : BitVec 2) (dst : Reg) (src : Src Reg) : Statement (.mb b dst src) := by
  refine first rfl ((byte_op _ _ _ 0b111100#6).trans ?_)
  revert b; decide

theorem mh (h : BitVec 1) (dst : Reg) (src : Src Reg) : Statement (.mh h dst src) := by
  refine first rfl ((byte_op _ _ _ 0b111110#6).trans ?_)
  revert h; decide

theorem mpyf (dst : FReg) (src : Src FReg) : Statement (.mpyf dst src) := first rfl ((general_op ..).trans (by decide))

theorem mpyi (dst : Reg) (src : Src Reg) : Statement (.mpyi dst src) := first rfl ((general_op ..).trans (by decide))

theorem mpyshi (dst : Reg) (src : Src Reg) : Statement (.mpyshi dst src) := first rfl ((general_op ..).trans (by decide))

theorem mpyuhi (dst : Reg) (src : Src Reg) : Statement (.mpyuhi dst src) := first rfl ((general_op ..).trans (by decide))

theorem negb (dst : Reg) (src : Src Reg) : Statement (.negb dst src) := first rfl ((general_op ..).trans (by decide))

theorem negf (dst : FReg) (src : Src FReg) : Statement (.negf dst src) := first rfl ((general_op ..).trans (by decide))

theorem negi (dst : Reg) (src : Src Reg) : Statement (.negi dst src) := first rfl ((general_op ..).trans (by decide))

theorem norm (dst : FReg) (src : Src FReg) : Statement (.norm dst src) := first rfl ((general_op ..).trans (by decide))

theorem not (dst : Reg) (src : Src Reg) : Statement (.not dst src) := first rfl ((general_op ..).trans (by decide))

theorem or (dst : Reg) (src : Src Reg) : Statement (.or dst src) := first rfl ((general_op ..).trans (by decide))

theorem rcpf (dst : FReg) (src : Src FReg) : Statement (.rcpf dst src) := first rfl ((general_op ..).trans (by decide))

theorem rnd (dst : FReg) (src : Src FReg) : Statement (.rnd dst src) := first rfl ((general_op ..).trans (by decide))

theorem rol (dst : Reg) : Statement (.rol dst) := first rfl ((general_g ..).trans (by decide))

theorem rolc (dst : Reg) : Statement (.rolc dst) := first rfl ((general_g ..).trans (by decide))

theorem ror (dst : Reg) : Statement (.ror dst) := first rfl ((general_g ..).trans (by decide))

theorem rorc (dst : Reg) : Statement (.rorc dst) := first rfl ((general_g ..).trans (by decide))

theorem rsqrf (dst : FReg) (src : Src FReg) : Statement (.rsqrf dst src) := first rfl ((general_op ..).trans (by decide))

theorem subb (dst : Reg) (src : Src Reg) : Statement (.subb dst src) := first rfl ((general_op ..).trans (by decide))

theorem subc (dst : Reg) (src : Src Reg) : Statement (.subc dst src) := first rfl ((general_op ..).trans (by decide))

theorem subf (dst : FReg) (src : Src FReg) : Statement (.subf dst src) := first rfl ((general_op ..).trans (by decide))

theorem subi (dst : Reg) (src : Src Reg) : Statement (.subi dst src) := first rfl ((general_op ..).trans (by decide))

theorem subrb (dst : Reg) (src : Src Reg) : Statement (.subrb dst src) := first rfl ((general_op ..).trans (by decide))

theorem subrf (dst : FReg) (src : Src FReg) : Statement (.subrf dst src) := first rfl ((general_op ..).trans (by decide))

theorem subri (dst : Reg) (src : Src Reg) : Statement (.subri dst src) := first rfl ((general_op ..).trans (by decide))

theorem toieee (dst : FReg) (src : Src FReg) : Statement (.toieee dst src) := first rfl ((general_op ..).trans (by decide))

theorem tstb (dst : Reg) (src : Src Reg) : Statement (.tstb dst src) := first rfl ((general_op ..).trans (by decide))

theorem xor (dst : Reg) (src : Src Reg) : Statement (.xor dst src) := first rfl ((general_op ..).trans (by decide))

theorem addc3 (dst : Reg) (t : Tri Reg) : Statement (.addc3 dst t) := by
  cases t <;> first
    | exact first rfl ((tri_op ..).trans (by dsimp only [fieldsOfTri]; decide))
    | exact second rfl ((tri_op ..).trans (by dsimp only [fieldsOfTri]; decide))

theorem addf3 (dst : FReg) (t : Tri FReg) : Statement (.addf3 dst t) := by
  cases t <;> first
    | exact first rfl ((tri_op ..).trans (by dsimp only [fieldsOfTri]; decide))
    | exact second rfl ((tri_op ..).trans (by dsimp only [fieldsOfTri]; decide))

theorem addi3 (dst : Reg) (t : Tri Reg) : Statement (.addi3 dst t) := by
  cases t <;> first
    | exact first rfl ((tri_op ..).trans (by dsimp only [fieldsOfTri]; decide))
    | exact second rfl ((tri_op ..).trans (by dsimp only [fieldsOfTri]; decide))

theorem and3 (dst : Reg) (t : Tri Reg) : Statement (.and3 dst t) := by
  cases t <;> first
    | exact first rfl ((tri_op ..).trans (by dsimp only [fieldsOfTri]; decide))
    | exact second rfl ((tri_op ..).trans (by dsimp only [fieldsOfTri]; decide))

theorem andn3 (dst : Reg) (t : Tri Reg) : Statement (.andn3 dst t) := by
  cases t <;> first
    | exact first rfl ((tri_op ..).trans (by dsimp only [fieldsOfTri]; decide))
    | exact second rfl ((tri_op ..).trans (by dsimp only [fieldsOfTri]; decide))

theorem ash3 (dst : Reg) (t : Tri Reg) : Statement (.ash3 dst t) := by
  cases t <;> first
    | exact first rfl ((tri_op ..).trans (by dsimp only [fieldsOfTri]; decide))
    | exact second rfl ((tri_op ..).trans (by dsimp only [fieldsOfTri]; decide))

theorem cmpf3 (t : Tri FReg) : Statement (.cmpf3 t) := by
  cases t <;> first
    | exact first rfl ((tri_d ..).trans (by dsimp only [fieldsOfTri]; decide))
    | exact second rfl ((tri_d ..).trans (by dsimp only [fieldsOfTri]; decide))

theorem cmpi3 (t : Tri Reg) : Statement (.cmpi3 t) := by
  cases t <;> first
    | exact first rfl ((tri_d ..).trans (by dsimp only [fieldsOfTri]; decide))
    | exact second rfl ((tri_d ..).trans (by dsimp only [fieldsOfTri]; decide))

theorem lsh3 (dst : Reg) (t : Tri Reg) : Statement (.lsh3 dst t) := by
  cases t <;> first
    | exact first rfl ((tri_op ..).trans (by dsimp only [fieldsOfTri]; decide))
    | exact second rfl ((tri_op ..).trans (by dsimp only [fieldsOfTri]; decide))

theorem mpyf3 (dst : FReg) (t : Tri FReg) : Statement (.mpyf3 dst t) := by
  cases t <;> first
    | exact first rfl ((tri_op ..).trans (by dsimp only [fieldsOfTri]; decide))
    | exact second rfl ((tri_op ..).trans (by dsimp only [fieldsOfTri]; decide))

theorem mpyi3 (dst : Reg) (t : Tri Reg) : Statement (.mpyi3 dst t) := by
  cases t <;> first
    | exact first rfl ((tri_op ..).trans (by dsimp only [fieldsOfTri]; decide))
    | exact second rfl ((tri_op ..).trans (by dsimp only [fieldsOfTri]; decide))

theorem mpyshi3 (dst : Reg) (t : Tri Reg) : Statement (.mpyshi3 dst t) := by
  cases t <;> first
    | exact first rfl ((tri_op ..).trans (by dsimp only [fieldsOfTri]; decide))
    | exact second rfl ((tri_op ..).trans (by dsimp only [fieldsOfTri]; decide))

theorem mpyuhi3 (dst : Reg) (t : Tri Reg) : Statement (.mpyuhi3 dst t) := by
  cases t <;> first
    | exact first rfl ((tri_op ..).trans (by dsimp only [fieldsOfTri]; decide))
    | exact second rfl ((tri_op ..).trans (by dsimp only [fieldsOfTri]; decide))

theorem or3 (dst : Reg) (t : Tri Reg) : Statement (.or3 dst t) := by
  cases t <;> first
    | exact first rfl ((tri_op ..).trans (by dsimp only [fieldsOfTri]; decide))
    | exact second rfl ((tri_op ..).trans (by dsimp only [fieldsOfTri]; decide))

theorem subb3 (dst : Reg) (t : Tri Reg) : Statement (.subb3 dst t) := by
  cases t <;> first
    | exact first rfl ((tri_op ..).trans (by dsimp only [fieldsOfTri]; decide))
    | exact second rfl ((tri_op ..).trans (by dsimp only [fieldsOfTri]; decide))

theorem subf3 (dst : FReg) (t : Tri FReg) : Statement (.subf3 dst t) := by
  cases t <;> first
    | exact first rfl ((tri_op ..).trans (by dsimp only [fieldsOfTri]; decide))
    | exact second rfl ((tri_op ..).trans (by dsimp only [fieldsOfTri]; decide))

theorem subi3 (dst : Reg) (t : Tri Reg) : Statement (.subi3 dst t) := by
  cases t <;> first
    | exact first rfl ((tri_op ..).trans (by dsimp only [fieldsOfTri]; decide))
    | exact second rfl ((tri_op ..).trans (by dsimp only [fieldsOfTri]; decide))

theorem tstb3 (t : Tri Reg) : Statement (.tstb3 t) := by
  cases t <;> first
    | exact first rfl ((tri_d ..).trans (by dsimp only [fieldsOfTri]; decide))
    | exact second rfl ((tri_d ..).trans (by dsimp only [fieldsOfTri]; decide))

theorem xor3 (dst : Reg) (t : Tri Reg) : Statement (.xor3 dst t) := by
  cases t <;> first
    | exact first rfl ((tri_op ..).trans (by dsimp only [fieldsOfTri]; decide))
    | exact second rfl ((tri_op ..).trans (by dsimp only [fieldsOfTri]; decide))

theorem bCond (c : Cond) (t : Target) : Statement (.bCond c t) := first rfl ((branch_op ..).trans (by decide))

theorem bCondAf (c : Cond) (t : Target) : Statement (.bCondAf c t) := first rfl ((branch_op ..).trans (by decide))

theorem bCondAt (c : Cond) (t : Target) : Statement (.bCondAt c t) := first rfl ((branch_op ..).trans (by decide))

theorem bCondD (c : Cond) (t : Target) : Statement (.bCondD c t) := first rfl ((branch_op ..).trans (by decide))

theorem br (d : BitVec 24) : Statement (.br d) := first rfl ((long_op ..).trans (by decide))

theorem brd (d : BitVec 24) : Statement (.brd d) := first rfl ((long_op ..).trans (by decide))

theorem call (d : BitVec 24) : Statement (.call d) := first rfl ((long_op ..).trans (by decide))

theorem callCond (c : Cond) (t : Target) : Statement (.callCond c t) := first rfl ((call_op ..).trans (by decide))

theorem dbCond (n : Fin 8) (c : Cond) (t : Target) : Statement (.dbCond n c t) := first rfl ((decrement_op ..).trans (by decide))

theorem dbCondD (n : Fin 8) (c : Cond) (t : Target) : Statement (.dbCondD n c t) := first rfl ((decrement_op ..).trans (by decide))

theorem iack (m : Mem) : Statement (.iack m) := by
  cases m with
  | dir a => exact first rfl ((general_gd ..).trans (by dsimp only [fieldOfMem]; decide))
  | ind i d => exact second rfl ((general_gd ..).trans (by dsimp only [fieldOfMem]; decide))

theorem idle : Statement (.idle) := first rfl rfl

theorem idle2 : Statement (.idle2) := first rfl rfl

theorem laj (d : BitVec 24) : Statement (.laj d) := first rfl ((long_op ..).trans (by decide))

theorem lajCond (c : Cond) (t : Target) : Statement (.lajCond c t) := first rfl ((call_op ..).trans (by decide))

theorem latCond (c : Cond) (n : BitVec 9) : Statement (.latCond c n) := first rfl ((trap_op ..).trans (by decide))

theorem nop (s : NopSrc) : Statement (.nop s) := by
  cases s <;> exact first rfl ((general_d ..).trans (by decide))

theorem retiCond (c : Cond) : Statement (.retiCond c) := first rfl ((return_op ..).trans (by decide))

theorem retiCondD (c : Cond) : Statement (.retiCondD c) := first rfl ((return_op ..).trans (by decide))

theorem retsCond (c : Cond) : Statement (.retsCond c) := first rfl ((return_op ..).trans (by decide))

theorem trapCond (c : Cond) (n : BitVec 9) : Statement (.trapCond c n) := first rfl ((trap_op ..).trans (by decide))

theorem swi : Statement (.swi) := first rfl rfl

theorem rptb (e : BlockEnd) : Statement (.rptb e) := by
  cases e with
  | rel d => exact first rfl ((long_op ..).trans (by decide))
  | reg r => exact second rfl ((repeat_op ..).trans (by decide))

theorem rptbd (e : BlockEnd) : Statement (.rptbd e) := by
  cases e with
  | rel d => exact first rfl ((long_op ..).trans (by decide))
  | reg r => exact second rfl ((repeat_op ..).trans (by decide))

theorem rpts (src : Src Reg) : Statement (.rpts src) := first rfl ((general_d ..).trans (by decide))

theorem ldfi (dst : FReg) (m : Mem) : Statement (.ldfi dst m) := by
  cases m with
  | dir a => exact first rfl ((general_g ..).trans (by dsimp only [fieldOfMem]; decide))
  | ind i d => exact second rfl ((general_g ..).trans (by dsimp only [fieldOfMem]; decide))

theorem ldii (dst : Reg) (m : Mem) : Statement (.ldii dst m) := by
  cases m with
  | dir a => exact first rfl ((general_g ..).trans (by dsimp only [fieldOfMem]; decide))
  | ind i d => exact second rfl ((general_g ..).trans (by dsimp only [fieldOfMem]; decide))

theorem sigi (dst : Reg) (m : Mem) : Statement (.sigi dst m) := by
  cases m with
  | dir a => exact first rfl ((general_g ..).trans (by dsimp only [fieldOfMem]; decide))
  | ind i d => exact second rfl ((general_g ..).trans (by dsimp only [fieldOfMem]; decide))

theorem stfi (src : FReg) (m : Mem) : Statement (.stfi src m) := by
  cases m with
  | dir a => exact first rfl ((general_g ..).trans (by dsimp only [fieldOfMem]; decide))
  | ind i d => exact second rfl ((general_g ..).trans (by dsimp only [fieldOfMem]; decide))

theorem stii (src : Reg) (m : Mem) : Statement (.stii src m) := by
  cases m with
  | dir a => exact first rfl ((general_g ..).trans (by dsimp only [fieldOfMem]; decide))
  | ind i d => exact second rfl ((general_g ..).trans (by dsimp only [fieldOfMem]; decide))

theorem absfStf (o : ParStore) : Statement (.absfStf o) :=
  first rfl ((parallel_op _ _ _ _ _ _ (BitVec.allOnes 3) (0#3)).trans (by simp only [BitVec.and_zero]; decide))

theorem absiSti (o : ParStore) : Statement (.absiSti o) :=
  first rfl ((parallel_op _ _ _ _ _ _ (BitVec.allOnes 3) (0#3)).trans (by simp only [BitVec.and_zero]; decide))

theorem addf3Stf (o : ParStore3) : Statement (.addf3Stf o) :=
  first rfl ((parallel_op _ _ _ _ _ _ (0#3) (0#3)).trans (by simp only [BitVec.and_zero]; decide))

theorem addi3Sti (o : ParStore3) : Statement (.addi3Sti o) :=
  first rfl ((parallel_op _ _ _ _ _ _ (0#3) (0#3)).trans (by simp only [BitVec.and_zero]; decide))

theorem and3Sti (o : ParStore3) : Statement (.and3Sti o) :=
  first rfl ((parallel_op _ _ _ _ _ _ (0#3) (0#3)).trans (by simp only [BitVec.and_zero]; decide))

theorem ash3Sti (o : ParStore3) : Statement (.ash3Sti o) :=
  first rfl ((parallel_op _ _ _ _ _ _ (0#3) (0#3)).trans (by simp only [BitVec.and_zero]; decide))

theorem fixSti (o : ParStore) : Statement (.fixSti o) :=
  first rfl ((parallel_op _ _ _ _ _ _ (BitVec.allOnes 3) (0#3)).trans (by simp only [BitVec.and_zero]; decide))

theorem floatStf (o : ParStore) : Statement (.floatStf o) :=
  first rfl ((parallel_op _ _ _ _ _ _ (BitVec.allOnes 3) (0#3)).trans (by simp only [BitVec.and_zero]; decide))

theorem frieeeStf (o : ParStore) : Statement (.frieeeStf o) :=
  first rfl ((parallel_op _ _ _ _ _ _ (BitVec.allOnes 3) (0#3)).trans (by simp only [BitVec.and_zero]; decide))

theorem ldfLdf (o : ParLoads) : Statement (.ldfLdf o) :=
  first rfl ((parallel_op _ _ _ _ _ _ (0#3) (BitVec.allOnes 3)).trans (by simp only [BitVec.and_zero]; decide))

theorem ldfStf (o : ParStore) : Statement (.ldfStf o) :=
  first rfl ((parallel_op _ _ _ _ _ _ (BitVec.allOnes 3) (0#3)).trans (by simp only [BitVec.and_zero]; decide))

theorem ldiLdi (o : ParLoads) : Statement (.ldiLdi o) :=
  first rfl ((parallel_op _ _ _ _ _ _ (0#3) (BitVec.allOnes 3)).trans (by simp only [BitVec.and_zero]; decide))

theorem ldiSti (o : ParStore) : Statement (.ldiSti o) :=
  first rfl ((parallel_op _ _ _ _ _ _ (BitVec.allOnes 3) (0#3)).trans (by simp only [BitVec.and_zero]; decide))

theorem lsh3Sti (o : ParStore3) : Statement (.lsh3Sti o) :=
  first rfl ((parallel_op _ _ _ _ _ _ (0#3) (0#3)).trans (by simp only [BitVec.and_zero]; decide))

theorem mpyf3Addf3 (o : MulAdd) : Statement (.mpyf3Addf3 o) := first rfl ((mulAdd_op ..).trans (by decide))

theorem mpyf3Stf (o : ParStore3) : Statement (.mpyf3Stf o) :=
  first rfl ((parallel_op _ _ _ _ _ _ (0#3) (0#3)).trans (by simp only [BitVec.and_zero]; decide))

theorem mpyf3Subf3 (o : MulAdd) : Statement (.mpyf3Subf3 o) := first rfl ((mulAdd_op ..).trans (by decide))

theorem mpyi3Addi3 (o : MulAdd) : Statement (.mpyi3Addi3 o) := first rfl ((mulAdd_op ..).trans (by decide))

theorem mpyi3Sti (o : ParStore3) : Statement (.mpyi3Sti o) :=
  first rfl ((parallel_op _ _ _ _ _ _ (0#3) (0#3)).trans (by simp only [BitVec.and_zero]; decide))

theorem mpyi3Subi3 (o : MulAdd) : Statement (.mpyi3Subi3 o) := first rfl ((mulAdd_op ..).trans (by decide))

theorem negfStf (o : ParStore) : Statement (.negfStf o) :=
  first rfl ((parallel_op _ _ _ _ _ _ (BitVec.allOnes 3) (0#3)).trans (by simp only [BitVec.and_zero]; decide))

theorem negiSti (o : ParStore) : Statement (.negiSti o) :=
  first rfl ((parallel_op _ _ _ _ _ _ (BitVec.allOnes 3) (0#3)).trans (by simp only [BitVec.and_zero]; decide))

theorem notSti (o : ParStore) : Statement (.notSti o) :=
  first rfl ((parallel_op _ _ _ _ _ _ (BitVec.allOnes 3) (0#3)).trans (by simp only [BitVec.and_zero]; decide))

theorem or3Sti (o : ParStore3) : Statement (.or3Sti o) :=
  first rfl ((parallel_op _ _ _ _ _ _ (0#3) (0#3)).trans (by simp only [BitVec.and_zero]; decide))

theorem stfStf (o : ParStores) : Statement (.stfStf o) :=
  first rfl ((parallel_op _ _ _ _ _ _ (BitVec.allOnes 3) (0#3)).trans (by simp only [BitVec.and_zero]; decide))

theorem stiSti (o : ParStores) : Statement (.stiSti o) :=
  first rfl ((parallel_op _ _ _ _ _ _ (BitVec.allOnes 3) (0#3)).trans (by simp only [BitVec.and_zero]; decide))

theorem subf3Stf (o : ParStore3) : Statement (.subf3Stf o) :=
  first rfl ((parallel_op _ _ _ _ _ _ (0#3) (0#3)).trans (by simp only [BitVec.and_zero]; decide))

theorem subi3Sti (o : ParStore3) : Statement (.subi3Sti o) :=
  first rfl ((parallel_op _ _ _ _ _ _ (0#3) (0#3)).trans (by simp only [BitVec.and_zero]; decide))

theorem toieeeStf (o : ParStore) : Statement (.toieeeStf o) :=
  first rfl ((parallel_op _ _ _ _ _ _ (BitVec.allOnes 3) (0#3)).trans (by simp only [BitVec.and_zero]; decide))

theorem xor3Sti (o : ParStore3) : Statement (.xor3Sti o) :=
  first rfl ((parallel_op _ _ _ _ _ _ (0#3) (0#3)).trans (by simp only [BitVec.and_zero]; decide))

end OpcodeRow
end Sys2Proof.Laws
end

