-- ==== Sys2Proof/Laws/Results.lean ====
section
/-! SUPPORT. Which flags the result of each operation touches, and what each shape of a meaning changes, once for every
shared operation of Flags.lean, Float.lean and Forms.lean. -/

namespace Sys2Proof.Machine

/-! ### Flags -/

/-- What a set of flags touches is in a list that has V, Z, N, UF and those of C, LV and LUF that it sets. -/
theorem Flags.touched_subset (f : Flags) (l : List Nat) (h : ∀ i ∈ [1, 2, 3, 4], i ∈ l) (hc : f.c.isSome = true → 0 ∈ l)
    (hv : f.v = true → 5 ∈ l) (hl : f.luf = true → 6 ∈ l) : ∀ i ∈ f.touched, i ∈ l := by
  intro i hi
  simp only [Flags.touched, List.mem_append] at hi
  rcases hi with ((hi | hi) | hi) | hi
  · exact h i hi
  all_goals
    split at hi
    · rename_i x
      rw [List.mem_singleton] at hi
      subst hi
      first | exact hc x | exact hv x | exact hl x
    · cases hi

theorem plainFlags_touched (v : Word) : ∀ i ∈ (plainFlags v).2.touched, i ∈ [1, 2, 3, 4] :=
  Flags.touched_subset _ _ (by decide) nofun nofun nofun

theorem unsignedFlags_touched (v : Word) : ∀ i ∈ (unsignedFlags v).2.touched, i ∈ [1, 2, 3, 4] :=
  Flags.touched_subset _ _ (by decide) nofun nofun nofun

theorem copyFlags_touched (x : Ext) : ∀ i ∈ (copyFlags x).2.touched, i ∈ [1, 2, 3, 4] :=
  Flags.touched_subset _ _ (by decide) nofun nofun nofun

theorem mulHighSigned_touched (a b : Word) : ∀ i ∈ (mulHighSigned a b).2.touched, i ∈ [1, 2, 3, 4] :=
  Flags.touched_subset _ _ (by decide) nofun nofun nofun

theorem mulHighUnsigned_touched (a b : Word) : ∀ i ∈ (mulHighUnsigned a b).2.touched, i ∈ [1, 2, 3, 4] :=
  Flags.touched_subset _ _ (by decide) nofun nofun nofun

theorem addInt_touched (o c : Bool) (a b : Word) : ∀ i ∈ (addInt o c a b).2.touched, i ∈ [0, 1, 2, 3, 4, 5] :=
  Flags.touched_subset _ _ (by decide) (fun _ => by decide) (fun _ => by decide) nofun

theorem subInt_touched (o c : Bool) (a b : Word) : ∀ i ∈ (subInt o c a b).2.touched, i ∈ [0, 1, 2, 3, 4, 5] :=
  Flags.touched_subset _ _ (by decide) (fun _ => by decide) (fun _ => by decide) nofun

theorem mulInt_touched (o : Bool) (a b : Word) : ∀ i ∈ (mulInt o a b).2.touched, i ∈ [1, 2, 3, 4, 5] :=
  Flags.touched_subset _ _ (by decide) nofun (fun _ => by decide) nofun

theorem absInt_touched (o : Bool) (a : Word) : ∀ i ∈ (absInt o a).2.touched, i ∈ [1, 2, 3, 4, 5] :=
  Flags.touched_subset _ _ (by decide) nofun (fun _ => by decide) nofun

theorem rotateLeft_touched (v : Word) (b : Bool) : ∀ i ∈ (rotateLeft v b).2.touched, i ∈ [0, 1, 2, 3, 4] :=
  Flags.touched_subset _ _ (by decide) (fun _ => by decide) nofun nofun

theorem rotateRight_touched (v : Word) (b : Bool) : ∀ i ∈ (rotateRight v b).2.touched, i ∈ [0, 1, 2, 3, 4] :=
  Flags.touched_subset _ _ (by decide) (fun _ => by decide) nofun nofun

theorem lshInt_touched (a b : Word) : ∀ i ∈ (lshInt a b).2.touched, i ∈ [0, 1, 2, 3, 4] :=
  Flags.touched_subset _ _ (by decide) (fun _ => by decide) nofun nofun

theorem ashInt_touched (a b : Word) : ∀ i ∈ (ashInt a b).2.touched, i ∈ [0, 1, 2, 3, 4, 5] := by
  unfold ashInt
  dsimp only
  split
  · exact Flags.touched_subset _ _ (by decide) (fun _ => by decide) (fun _ => by decide) nofun
  · split <;> exact Flags.touched_subset _ _ (by decide) (fun _ => by decide) (fun _ => by decide) nofun

theorem fixInt_touched (a : Ext) : ∀ i ∈ (fixInt a).2.touched, i ∈ [1, 2, 3, 4, 5] := by
  unfold fixInt
  exact Flags.touched_subset _ _ (by decide) nofun (fun _ => by decide) nofun

theorem fromIeee_touched (w : Word) : ∀ i ∈ (fromIeee w).2.touched, i ∈ [1, 2, 3, 4, 5] := by
  unfold fromIeee
  exact Flags.touched_subset _ _ (by decide) nofun (fun _ => by decide) nofun

theorem toIeee_touched (a : Ext) : ∀ i ∈ (toIeee a).2.touched, i ∈ [1, 2, 3, 4, 5] := by
  unfold toIeee
  exact Flags.touched_subset _ _ (by decide) nofun (fun _ => by decide) nofun

theorem rootReciprocal_touched (n : Nat) (a : Ext) : ∀ i ∈ (rootReciprocal n a).2.touched, i ∈ [1, 2, 3, 4, 5] := by
  unfold rootReciprocal
  dsimp only
  split <;> exact Flags.touched_subset _ _ (by decide) nofun (fun _ => by decide) nofun

theorem reciprocal_touched (a : Ext) : ∀ i ∈ (reciprocal a).2.touched, i ∈ [1, 2, 3, 4, 5, 6] := by
  unfold reciprocal
  dsimp only
  split
  · exact Flags.touched_subset _ _ (by decide) nofun (fun _ => by decide) nofun
  · split <;> exact Flags.touched_subset _ _ (by decide) nofun (fun _ => by decide) (fun _ => by decide)

theorem floatFinish_c (x : Num) : (floatFinish x).2.c = none := by
  unfold floatFinish
  dsimp only
  repeat' split
  all_goals rfl

theorem floatFinish_touched (x : Num) : ∀ i ∈ (floatFinish x).2.touched, i ∈ [1, 2, 3, 4, 5, 6] :=
  Flags.touched_subset _ _ (by decide) (by rw [floatFinish_c]; decide) (fun _ => by decide) (fun _ => by decide)

theorem roundFloat_touched (a : Ext) : ∀ i ∈ (roundFloat a).2.touched, i ∈ [1, 2, 3, 4, 5, 6] := by
  unfold roundFloat
  dsimp only
  split
  · decide
  · exact floatFinish_touched _

/-- A result whose exponent cannot exceed 127 does not overflow. -/
theorem floatFinish_v (x : Num) (h : x.man = 0 ∨ x.exp + leading x.man - 31 ≤ 127) : (floatFinish x).2.v = false := by
  unfold floatFinish
  split
  · rfl
  · dsimp only
    rw [if_neg (by omega)]
    split <;> rfl

/-- A result whose exponent is above −128 does not underflow. -/
theorem floatFinish_luf (x : Num) (h : x.man = 0 ∨ -128 < x.exp + leading x.man - 31) : (floatFinish x).2.luf = false := by
  unfold floatFinish
  split
  · rfl
  · dsimp only
    split
    · rfl
    · rw [if_neg (by omega)]

/-- The leading position of a number of at most k bits and a sign. -/
theorem leading_lt (m : Int) (k : Nat) (h : -2 ^ k ≤ m) (h' : m < 2 ^ k) (h0 : m ≠ 0) : leading m ≤ k - 1 := by
  unfold leading
  split
  · have : m.toNat < 2 ^ k := by zify; omega
    have := (Nat.log2_lt (by omega)).2 this
    omega
  · split
    · omega
    · have : (-m - 1).toNat < 2 ^ k := by zify; omega
      have := (Nat.log2_lt (by omega)).2 this
      omega

theorem leading_ge (m : Int) : -1 ≤ leading m := by
  unfold leading
  split <;> (try split) <;> omega

theorem exponent_bounds (x : Ext) : -128 ≤ exponent x ∧ exponent x ≤ 127 := by
  have h := BitVec.le_toInt (x.extractLsb' 32 8)
  have h' := BitVec.toInt_lt (x := x.extractLsb' 32 8)
  unfold exponent
  omega

theorem floatInt_touched (n : Word) : ∀ i ∈ (floatInt n).2.touched, i ∈ [1, 2, 3, 4] := by
  have h1 : -2 ^ 31 ≤ n.toInt := BitVec.le_toInt n
  have h2 : n.toInt < 2 ^ 31 := BitVec.toInt_lt
  have h3 := leading_ge n.toInt
  have h := fun z => leading_lt n.toInt 31 h1 h2 z
  refine Flags.touched_subset _ _ (by decide) (by rw [floatInt, floatFinish_c]; decide) (fun h' => ?_) fun h' => ?_
  · rw [floatInt, floatFinish_v _ (by dsimp only; omega)] at h'; cases h'
  · rw [floatInt, floatFinish_luf _ (by dsimp only; omega)] at h'; cases h'

theorem normFloat_touched (x : Ext) : ∀ i ∈ (normFloat x).2.touched, i ∈ [1, 2, 3, 4, 6] := by
  unfold normFloat
  dsimp only
  split
  · decide
  split
  · decide
  have h1 : -2 ^ 31 ≤ (x.extractLsb' 0 32).toInt := BitVec.le_toInt _
  have h2 : (x.extractLsb' 0 32).toInt < 2 ^ 31 := BitVec.toInt_lt
  have h3 := exponent_bounds x
  have h := fun z => leading_lt (x.extractLsb' 0 32).toInt 31 h1 h2 z
  refine Flags.touched_subset _ _ (by decide) (by rw [floatFinish_c]; decide) (fun h' => ?_) fun _ => by decide
  rw [floatFinish_v _ (by dsimp only; omega)] at h'; cases h'

theorem floatAbs_touched (x : Ext) : ∀ i ∈ (floatAbs x).2.touched, i ∈ [1, 2, 3, 4, 5] := by
  unfold floatAbs
  refine Flags.touched_subset _ _ (by decide) (by rw [floatFinish_c]; decide) (fun _ => by decide) fun h' => ?_
  rw [floatFinish_luf] at h'
  · cases h'
  unfold Num.ofExt
  dsimp only
  have he := exponent_bounds x
  have hb : bits x 0 31 < 2 ^ 31 := by unfold bits; exact BitVec.isLt _
  split
  · left; rfl
  · right
    have hm : 2 ^ 31 ≤ (if x.getLsbD 31 = true then (bits x 0 31 : Int) - 2 ^ 32 else (bits x 0 31 : Int) + 2 ^ 31).natAbs := by
      split <;> omega
    have : (31 : Int) ≤ leading
        ((if x.getLsbD 31 = true then (bits x 0 31 : Int) - 2 ^ 32 else (bits x 0 31 : Int) + 2 ^ 31).natAbs : Int) := by
      unfold leading
      rw [if_pos (by omega), Int.toNat_natCast]
      exact_mod_cast (Nat.le_log2 (by omega)).2 hm
    dsimp only
    omega

theorem pairFlags_touched (a b : Flags) : ∀ i ∈ (pairFlags a b).touched, i ∈ [1, 2, 3, 4, 5, 6] :=
  Flags.touched_subset _ _ (by decide) nofun (fun _ => by decide) (fun _ => by decide)

/-- The flags of an integer multiply-add pair do not touch LUF. -/
theorem pairFlags_int_touched (o p : Bool) (a b : Int) (c : Option Bool) :
    ∀ i ∈ (pairFlags (intResult o a none).2 (intResult p b c).2).touched, i ∈ [1, 2, 3, 4, 5] :=
  Flags.touched_subset _ _ (by decide) nofun (fun _ => by decide) nofun

/-! ### The shapes of meanings -/

/-- What follows a finished operand access. -/
theorem Res.andThen_changes {α : Type} {s u : State} {x : Res α} {f : α → State → State} {l l' b as} {a : Unit}
    (h : x.andThen f = .ok a u) (hx : ∀ v t, x = .ok v t → s.Accesses t l as)
    (hf : ∀ v t, x = .ok v t → t.Changes (f v t) l' b []) : s.Changes u (l' ++ l) b as := by
  obtain ⟨v, t, e, rfl⟩ := Res.andThen_eq_ok h
  exact ((hx v t e).changes.trans (hf v t e)).mono (by simp [or_comm]) (by simp) (by simp)

/-- An integer result computed from accessed operands: its destination, the flags it touches, the operands' registers. -/
theorem Res.result_changes {α : Type} {s u : State} {x : Res α} {d : Reg} {f : α → State → Word × Flags} {l b} {a : Unit}
    (h : (x.andThen fun v t => t.result d (f v t)) = .ok a u) (hx : ∀ v t, x = .ok v t → s.Accesses t l [])
    (hb : ∀ v t, ∀ i ∈ (f v t).2.touched, i ∈ b) : s.Changes u (d :: l) b [] :=
  Res.andThen_changes (l' := [d]) h hx fun v t _ =>
    (State.result_changes t d (f v t)).mono (fun _ y => y) (hb v t) fun _ y => y

/-- A floating-point result computed from accessed operands. -/
theorem Res.resultF_changes {α : Type} {s u : State} {x : Res α} {d : FReg} {f : α → State → Ext × Flags} {l b} {a : Unit}
    (h : (x.andThen fun v t => t.resultF d (f v t)) = .ok a u) (hx : ∀ v t, x = .ok v t → s.Accesses t l [])
    (hb : ∀ v t, ∀ i ∈ (f v t).2.touched, i ∈ b) : s.Changes u (.r d :: l) b [] :=
  Res.andThen_changes (l' := [.r d]) h hx fun v t _ =>
    (State.resultF_changes t d (f v t)).mono (fun _ y => y) (hb v t) fun _ y => y

/-- Flags alone computed from accessed operands. -/
theorem Res.setFlags_changes {α : Type} {s u : State} {x : Res α} {f : α → State → Flags} {l b} {a : Unit}
    (h : (x.andThen fun v t => t.setFlags (f v t)) = .ok a u) (hx : ∀ v t, x = .ok v t → s.Accesses t l [])
    (hb : ∀ v t, ∀ i ∈ (f v t).touched, i ∈ b) : s.Changes u l b [] :=
  Res.andThen_changes (l' := []) h hx fun v t _ =>
    (State.setFlags_changes t (f v t)).mono (fun _ y => y) (hb v t) fun _ y => y

/-- A parallel operation with a store. -/
theorem State.withStore_changes {s u : State} {i j : Ind} {v : Word} {f : Word → State → State} {l b} {a : Unit}
    (h : s.withStore i j v f = .ok a u) (hf : ∀ w (t : State), t.Changes (f w t) l b []) :
    s.Changes u (l ++ (indModifies j ++ indModifies i)) b [s.indAddr j implied] := by
  obtain ⟨w, t, rfl, hx⟩ := State.withStore_accesses h
  exact (hx.changes.trans (hf w t)).mono (by simp; tauto) (by simp) (by simp)

end Sys2Proof.Machine
end

