-- ==== Sys2Proof/Tests/Slice0.lean ====
section
/-! SUPPORT. The author's own tests: the ill-formed terms each check of WellFormed refuses, words written out from the
encodings of spec/ (30, 95, 96), single steps with the results of the vectors of spec/96, and for every statement with
hypotheses a state that meets them. -/

namespace Sys2Proof.Tests

open Sys2Proof.Machine

/-! ### Helpers -/

/-- A running core at the start of on-chip RAM, its other registers at their reset values. -/
def base : State := { State.reset with phase := .running, pc := 0x2FF800, st := 0 }

/-- The same with pointers into RAM: AR0–AR7 at 2FFA00h–2FFA07h, SP at 2FF900h, DP = 2Fh, a block of 4. -/
def w0 : State :=
  { base with
    sp := 0x2FF900, dp := 0x2F, bk := 4, ir0 := 1, ir1 := 2
    ar := ⟨#[0x2FFA00, 0x2FFA01, 0x2FFA02, 0x2FFA03, 0x2FFA04, 0x2FFA05, 0x2FFA06, 0x2FFA07], rfl⟩ }

/-- A word placed in memory. -/
def poke (s : State) (a v : Word) : State := { s with mem := Memory.writeWord s.mem a v }

/-- ST set. -/
def withSt (s : State) (v : Word) : State := { s with st := v }

/-- What is seen of the next state, none at a fault or a refusal. -/
def seen {α : Type} (x : Host.Outcome State Fault Refusal) (f : State → α) : Option α :=
  match x with | .next t => some (f t) | _ => none

/-- The outcome is a next state. -/
def goesOn (x : Host.Outcome State Fault Refusal) : Bool := (seen x fun _ => ()).isSome

/-- A computation finishes: it is `.ok` of some value and state. -/
def finishes {α : Type} (x : Res α) : Bool := match x with | .ok _ _ => true | _ => false

/-- A computation waits for something. -/
def waits {α : Type} (x : Res α) (w : Wait) : Bool := match x with | .wait v => v == w | _ => false

/-- The value a computation finishes with. -/
def value {α : Type} (x : Res α) : Option α := match x with | .ok a _ => some a | _ => none

/-! ### Well-formedness: an ill-formed term for each check -/

theorem test_lda_refuses_r0 : (Instr.lda (.r 0) (.reg (.r 1))).wellFormed = false := by decide
theorem test_ldi_refuses_the_form_of_ldp : (Instr.ldi .dp (.imm 5)).wellFormed = false := by decide
theorem test_addf3_refuses_an_immediate : (Instr.addf3 0 (.regImm 1 2)).wellFormed = false := by decide
theorem test_cmpf3_refuses_an_immediate : (Instr.cmpf3 (.dispImm ⟨1, 2⟩ 3)).wellFormed = false := by decide
theorem test_mpyf3_refuses_an_immediate : (Instr.mpyf3 0 (.regImm 1 2)).wellFormed = false := by decide
theorem test_subf3_refuses_an_immediate : (Instr.subf3 0 (.dispImm ⟨1, 2⟩ 3)).wellFormed = false := by decide
theorem test_the_others_are_well_formed :
    (Instr.lda .bk (.reg (.r 1))).wellFormed = true ∧ (Instr.ldi .dp (.reg (.r 1))).wellFormed = true
      ∧ (Instr.addf3 0 (.regReg 1 2)).wellFormed = true := by decide

/-! ### Decoding: words of spec/96 (V1–V88), checked in both directions -/

/-- A word decodes to an instruction, and the instruction encodes to a word that decodes to it again. -/
def isWord (w : Word) (i : Instr) : Bool := decide (decode w = .ok i) && decide (decode (encode i) = .ok i)

/-- V1–V8: ADDI R3,R7, ADDI @0BCDEh,R7, ADDI *+AR1(2),R4, ADDI -1,R0, LDI *-AR1(IR0),R5, LDI 3,RC, LDF 5.0,R0, LDFZ R3,R5. -/
theorem test_decode_general_1 :
    isWord 0x02070003 (.addi (.r 7) (.reg (.r 3)))
      && isWord 0x0227BCDE (.addi (.r 7) (.mem (.dir 0xbcde)))
      && isWord 0x02440102 (.addi (.r 4) (.mem (.ind ⟨.indexed .disp .preAdd, 1⟩ 0x02)))
      && isWord 0x0260FFFF (.addi (.r 0) (.imm 0xffff))
      && isWord 0x08454900 (.ldi (.r 5) (.mem (.ind ⟨.indexed .ir0 .preSub, 1⟩ 0x00)))
      && isWord 0x087B0003 (.ldi .rc (.imm 0x0003))
      && isWord 0x07602200 (.ldf 0 (.imm 0x2200))
      && isWord 0x42850003 (.ldfCond .eq 5 (.reg 3)) := by decide

/-- V9–V16: LDIZ R4,R6, LDINZ 1,R0, LDHI 44h,R2, LDPK 2Fh, LDP @2FFC00h, LDA *AR0++(1),AR1, LDE R0,R5, LDM 156.75,R2. -/
theorem test_decode_general_2 :
    isWord 0x52860004 (.ldiCond .eq (.r 6) (.reg (.r 4)))
      && isWord 0x53600001 (.ldiCond .ne (.r 0) (.imm 0x0001))
      && isWord 0x1FE20044 (.ldhi (.r 2) 0x0044)
      && isWord 0x1F70002F (.ldpk 0x002f)
      && isWord 0x0870002F (.ldp 0x002f)
      && isWord 0x1EC92001 (.lda (.ar 1) (.mem (.ind ⟨.indexed .disp .postAdd, 0⟩ 0x01)))
      && isWord 0x06850000 (.lde 5 (.reg 0))
      && isWord 0x096201CC (.ldm 2 (.imm 0x01cc)) := by decide

/-- V17–V24: LDEP TVTP,AR0, LDPE AR0,TVTP, PUSH R6, POP R3, PUSHF R2, POPF R4, STI R4,@982Bh, STI R0,*AR1++(1). -/
theorem test_decode_general_3 :
    isWord 0x76080001 (.ldep (.ar 0) .tvtp)
      && isWord 0x76810008 (.ldpe .tvtp (.ar 0))
      && isWord 0x0F260000 (.push (.r 6))
      && isWord 0x0E230000 (.pop (.r 3))
      && isWord 0x0FA20000 (.pushf 2)
      && isWord 0x0EA40000 (.popf 4)
      && isWord 0x1524982B (.sti (.r 4) (.dir 0x982b))
      && isWord 0x15402101 (.sti (.r 0) (.ind ⟨.indexed .disp .postAdd, 1⟩ 0x01)) := by decide

/-- V25–V32: STF R2,@98A1h, STIK -16,*AR0, STIK 15,@0FC10h, ASH R1,R3, ROL R3, RORC R4, LB2 R1,R2, LHU1 *AR0,R2. -/
theorem test_decode_general_4 :
    isWord 0x142298A1 (.stf 2 (.dir 0x98a1))
      && isWord 0x1570C000 (.stik 0x10 (.ind ⟨.plain, 0⟩ 0x00))
      && isWord 0x150FFC10 (.stik 0x0f (.dir 0xfc10))
      && isWord 0x03830001 (.ash (.r 3) (.reg (.r 1)))
      && isWord 0x11E30000 (.rol (.r 3))
      && isWord 0x1364FFFF (.rorc (.r 4))
      && isWord 0xB1020001 (.lb 0x2 (.r 2) (.reg (.r 1)))
      && isWord 0xBBC2C000 (.lhu 0x1 (.r 2) (.mem (.ind ⟨.plain, 0⟩ 0x00))) := by decide

/-- V33–V39: MB2 AR1,AR2, NOP, NOP *AR3--(1), IDLE, IDLE2, RPTS AR5, RPTS 255. -/
theorem test_decode_general_5 :
    isWord 0xB90A0009 (.mb 0x2 (.ar 2) (.reg (.ar 1)))
      && isWord 0x0C800000 (.nop (.reg (.r 0)))
      && isWord 0x0CC02B01 (.nop (.ind ⟨.indexed .disp .postSub, 3⟩ 0x01))
      && isWord 0x06000000 (.idle)
      && isWord 0x06000001 (.idle2)
      && isWord 0x139B000D (.rpts (.reg (.ar 5)))
      && isWord 0x13FB00FF (.rpts (.imm 0x00ff)) := by decide

/-- V40–V45: ADDI3 R1,R2,R3, ADDI3 *AR0++(1),R5,R0, AND3 80h,R0,R0, ADDF3 *+AR1(2),*+AR1(8),R4, CMPF3 *AR2,*AR3--(1), MPYF3 R1,R0,R2. -/
theorem test_decode_threeOperand_1 :
    isWord 0x21030201 (.addi3 (.r 3) (.regReg (.r 2) (.r 1)))
      && isWord 0x21400520 (.addi3 (.r 0) (.regInd (.r 5) ⟨.indexed .disp .postAdd, 0⟩))
      && isWord 0x31800080 (.and3 (.r 0) (.regImm (.r 0) 0x80))
      && isWord 0x30E44111 (.addf3 4 (.dispDisp ⟨0x08, 1⟩ ⟨0x02, 1⟩))
      && isWord 0x23602BC2 (.cmpf3 (.indInd ⟨.indexed .disp .postSub, 3⟩ ⟨.plain, 2⟩))
      && isWord 0x24820001 (.mpyf3 2 (.regReg 0 1)) := by decide

/-- V46–V53: BU $+4 (disp 3), BZ R0, BNZD 36, BNE disp −2, BZAT disp 5, BZAF disp 5, DBLT AR3,R2, DBZD AR5,$+110h. -/
theorem test_decode_control_1 :
    isWord 0x6A000003 (.bCond .u (.rel 0x0003))
      && isWord 0x68050000 (.bCond .eq (.reg (.r 0)))
      && isWord 0x6A260024 (.bCondD .ne (.rel 0x0024))
      && isWord 0x6A06FFFE (.bCond .ne (.rel 0xfffe))
      && isWord 0x6A650005 (.bCondAt .eq (.rel 0x0005))
      && isWord 0x6AA50005 (.bCondAf .eq (.rel 0x0005))
      && isWord 0x6CC70002 (.dbCond 3 .lt (.reg (.r 2)))
      && isWord 0x6F65010D (.dbCondD 5 .eq (.rel 0x010d)) := by decide

/-- V54–V61: DBU AR0,disp −3, BR disp 10h, BRD disp −1, CALL disp 6, LAJ disp 20h, RPTB disp 1, RPTBD disp 5, RPTB AR1. -/
theorem test_decode_control_2 :
    isWord 0x6E00FFFD (.dbCond 0 .u (.rel 0xfffd))
      && isWord 0x60000010 (.br 0x000010)
      && isWord 0x61FFFFFF (.brd 0xffffff)
      && isWord 0x62000006 (.call 0x000006)
      && isWord 0x63000020 (.laj 0x000020)
      && isWord 0x64000001 (.rptb (.rel 0x000001))
      && isWord 0x65000005 (.rptbd (.rel 0x000005))
      && isWord 0x79000009 (.rptb (.reg (.ar 1))) := by decide

/-- V62–V69: RPTBD AR1, CALLNZ R5, LAJZ disp 8, RETSGE, RETSU, RETIU, RETIUD, TRAPU 511. -/
theorem test_decode_control_3 :
    isWord 0x79800009 (.rptbd (.reg (.ar 1)))
      && isWord 0x70060005 (.callCond .ne (.reg (.r 5)))
      && isWord 0x72250008 (.lajCond .eq (.rel 0x0008))
      && isWord 0x788A0000 (.retsCond .ge)
      && isWord 0x78800000 (.retsCond .u)
      && isWord 0x78000000 (.retiCond .u)
      && isWord 0x78200000 (.retiCondD .u)
      && isWord 0x740001FF (.trapCond .u 0x1ff) := by decide

/-- V70–V73: TRAPZ 5, LATNZ 3, SWI, IACK *AR5. -/
theorem test_decode_control_4 :
    isWord 0x74050005 (.trapCond .eq 0x005)
      && isWord 0x74860003 (.latCond .ne 0x003)
      && isWord 0x66000000 (.swi)
      && isWord 0x1B40C500 (.iack (.ind ⟨.plain, 5⟩ 0x00)) := by decide

/-- V74–V80: LDII @985Fh,R3, LDII *AR0,R1, STII R1,@98AEh, STII R1,*AR0, SIGI *AR0,R0, LDFI *+AR2(1),R7, STFI R3,*-AR4(1). -/
theorem test_decode_interlocked_1 :
    isWord 0x08A3985F (.ldii (.r 3) (.dir 0x985f))
      && isWord 0x08C1C000 (.ldii (.r 1) (.ind ⟨.plain, 0⟩ 0x00))
      && isWord 0x15A198AE (.stii (.r 1) (.dir 0x98ae))
      && isWord 0x15C1C000 (.stii (.r 1) (.ind ⟨.plain, 0⟩ 0x00))
      && isWord 0x1640C000 (.sigi (.r 0) (.ind ⟨.plain, 0⟩ 0x00))
      && isWord 0x07C70201 (.ldfi 7 (.ind ⟨.indexed .disp .preAdd, 2⟩ 0x01))
      && isWord 0x14C30C01 (.stfi 3 (.ind ⟨.indexed .disp .preSub, 4⟩ 0x01)) := by decide

/-- V81–V88: LDI *-AR1(1),R2 || STI R7,*AR5++(IR0), ADDI3 *AR0--(IR0),R5,R0 || STI R3,*AR7, ABSF *++AR3(IR1),R4 || STF R4,*-AR7(1), STI R0,*++AR2(IR0) || STI R5,*AR0, LDF *--AR1(IR0),R7 || LDF *AR7++(1),R3, MPYF3 *AR5++(1),*--AR1(IR0),R0 || ADDF3 R5,R7,R3, MPYI3 R7,R4,R0 || ADDI3 *-AR3(1),*AR5--(1),R3, MPYF3 *AR0++(1)%,*AR1++(1)%,R0 || ADDF3 R0,R2,R2. -/
theorem test_decode_parallel_1 :
    isWord 0xDA876509 (.ldiSti { dst1 := 2, src3 := 7, dst2 := ⟨.indexed .ir0 .postAdd, 5⟩, src2 := ⟨.indexed .disp .preSub, 1⟩ })
      && isWord 0xCE2BC768 (.addi3Sti { dst1 := 0, src1 := 5, src3 := 3, dst2 := ⟨.plain, 7⟩, src2 := ⟨.indexed .ir0 .postSub, 0⟩ })
      && isWord 0xC9040F93 (.absfStf { dst1 := 4, src3 := 4, dst2 := ⟨.indexed .disp .preSub, 7⟩, src2 := ⟨.indexed .ir1 .preAddModify, 3⟩ })
      && isWord 0xC205C052 (.stiSti { src2 := 0, src1 := 5, dst1 := ⟨.plain, 0⟩, dst2 := ⟨.indexed .ir0 .preAddModify, 2⟩ })
      && isWord 0xC5D82759 (.ldfLdf { dst2 := 7, dst1 := 3, src1 := ⟨.indexed .disp .postAdd, 7⟩, src2 := ⟨.indexed .ir0 .preSubModify, 1⟩ })
      && isWord 0x806F2559 (.mpyf3Addf3 { p := 0x0, d1 := false, d2 := true, src1 := 5, src2 := 7, src3 := ⟨.indexed .disp .postAdd, 5⟩, src4 := ⟨.indexed .ir0 .preSubModify, 1⟩ })
      && isWord 0x8A7C0B2D (.mpyi3Addi3 { p := 0x2, d1 := false, d2 := true, src1 := 7, src2 := 4, src3 := ⟨.indexed .disp .preSub, 3⟩, src4 := ⟨.indexed .disp .postSub, 5⟩ })
      && isWord 0x80023031 (.mpyf3Addf3 { p := 0x0, d1 := false, d2 := false, src1 := 0, src2 := 2, src3 := ⟨.indexed .disp .postAddCirc, 0⟩, src4 := ⟨.indexed .disp .postAddCirc, 1⟩ }) := by decide

/-- The same bit by bit, fields apart: ADDI R3,R7 (G = 00, dst = 7, src = 3); BZ R0; ADDI3 of V40; RPTBD of V60; LDII of V75;
the parallel LDI||STI of V81. -/
theorem test_decode_bit_by_bit :
    decode 0b000_000100_00_00111_0000000000000011 = .ok (.addi (.r 7) (.reg (.r 3)))
      ∧ decode 0b011010_0_0000_00101_0000000000000000 = .ok (.bCond .eq (.reg (.r 0)))
      ∧ decode 0b001_000010_00_00011_00000010_00000001 = .ok (.addi3 (.r 3) (.regReg (.r 2) (.r 1)))
      ∧ decode 0b01100101_000000000000000000000101 = .ok (.rptbd (.rel 5))
      ∧ decode 0b000_010001_10_00001_11000_000_00000000 = .ok (.ldii (.r 1) (.ind ⟨.plain, 0⟩ 0)) := by decide

/-- Words that are no encoding: condition codes 01011 and 10101, mod 11010, DBcond's and SWI's reserved fields, an LDA into
R0, an immediate form of a floating-point three-operand instruction. -/
theorem test_decode_refuses :
    ([0x6A0B0000, 0x6A150000, 0x0840D000, 0x66000001, 0x1EC00001, 0x30E00000] : List Word).map
      (fun w => match decode w with | .ok _ => false | .error _ => true) = [true, true, true, true, true, false] := by decide

/-! ### One step: vectors of spec/96 -/

/-- V195. -/
theorem test_addi :
    seen (exec (.addi (.r 0) (.reg (.r 1))) (withSt (((base.put (.r 0) 0x7FFFFFFF).put (.r 1) 0x00000001)) 128))
      (fun t => [(t.get (.r 0)).toNat, (t.st &&& 0x7F).toNat]) = some [0x7FFFFFFF, 0x22] := by decide
/-- V201. -/
theorem test_addc :
    seen (exec (.addc (.r 0) (.reg (.r 1))) (withSt (((base.put (.r 0) 0x7FFFFFFF).put (.r 1) 0x0)) 129))
      (fun t => [(t.get (.r 0)).toNat, (t.st &&& 0x7F).toNat]) = some [0x7FFFFFFF, 0x22] := by decide
/-- V205. -/
theorem test_subi :
    seen (exec (.subi (.r 0) (.reg (.r 1))) (withSt (((base.put (.r 0) 0x80000000).put (.r 1) 0x00000001)) 128))
      (fun t => [(t.get (.r 0)).toNat, (t.st &&& 0x7F).toNat]) = some [0x80000000, 0x2A] := by decide
/-- V209. -/
theorem test_subb :
    seen (exec (.subb (.r 0) (.reg (.r 1))) (withSt (((base.put (.r 0) 0x80000000).put (.r 1) 0x0)) 1))
      (fun t => [(t.get (.r 0)).toNat, (t.st &&& 0x7F).toNat]) = some [0x7FFFFFFF, 0x22] := by decide
/-- V211. -/
theorem test_subri :
    seen (exec (.subri (.r 0) (.reg (.r 1))) (withSt (((base.put (.r 0) 0x0A).put (.r 1) 0x3)) 0))
      (fun t => [(t.get (.r 0)).toNat, (t.st &&& 0x7F).toNat]) = some [0xFFFFFFF9, 0x9] := by decide
/-- V212. -/
theorem test_subrb :
    seen (exec (.subrb (.r 0) (.reg (.r 1))) (withSt (((base.put (.r 0) 0x0A).put (.r 1) 0x3)) 1))
      (fun t => [(t.get (.r 0)).toNat, (t.st &&& 0x7F).toNat]) = some [0xFFFFFFF8, 0x9] := by decide
/-- V214. -/
theorem test_cmpi :
    seen (exec (.cmpi (.r 0) (.reg (.r 1))) (withSt (((base.put (.r 0) 0x80000000).put (.r 1) 0x1)) 128))
      (fun t => [(t.get (.r 0)).toNat, (t.st &&& 0x7F).toNat]) = some [0x80000000, 0x22] := by decide
/-- V216. -/
theorem test_absi :
    seen (exec (.absi (.r 0) (.reg (.r 1))) (withSt (((base.put (.r 0) 0xDEADBEEF).put (.r 1) 0x80000000)) 0))
      (fun t => [(t.get (.r 0)).toNat, (t.st &&& 0x7F).toNat]) = some [0x80000000, 0x22] := by decide
/-- V222. -/
theorem test_negi :
    seen (exec (.negi (.r 0) (.reg (.r 1))) (withSt (((base.put (.r 0) 0xDEADBEEF).put (.r 1) 0x80000000)) 128))
      (fun t => [(t.get (.r 0)).toNat, (t.st &&& 0x7F).toNat]) = some [0x7FFFFFFF, 0x23] := by decide
/-- V228. -/
theorem test_negb :
    seen (exec (.negb (.r 0) (.reg (.r 1))) (withSt (((base.put (.r 0) 0xDEADBEEF).put (.r 1) 0x00000005)) 1))
      (fun t => [(t.get (.r 0)).toNat, (t.st &&& 0x7F).toNat]) = some [0xFFFFFFFA, 0x9] := by decide
/-- V233. -/
theorem test_mpyi :
    seen (exec (.mpyi (.r 0) (.reg (.r 1))) (withSt (((base.put (.r 0) 0x00010000).put (.r 1) 0xFFFF0000)) 128))
      (fun t => [(t.get (.r 0)).toNat, (t.st &&& 0x7F).toNat]) = some [0x80000000, 0x2A] := by decide
/-- V239. -/
theorem test_mpyshi :
    seen (exec (.mpyshi (.r 0) (.reg (.r 1))) (withSt (((base.put (.r 0) 0xFFFFFFFF).put (.r 1) 0x00000001)) 0))
      (fun t => [(t.get (.r 0)).toNat, (t.st &&& 0x7F).toNat]) = some [0xFFFFFFFF, 0x8] := by decide
/-- V246. -/
theorem test_mpyuhi :
    seen (exec (.mpyuhi (.r 0) (.reg (.r 1))) (withSt (((base.put (.r 0) 0xFFFFFFFF).put (.r 1) 0xFFFFFFFF)) 0))
      (fun t => [(t.get (.r 0)).toNat, (t.st &&& 0x7F).toNat]) = some [0xFFFFFFFE, 0x0] := by decide
/-- V250. -/
theorem test_subc :
    seen (exec (.subc (.r 0) (.reg (.r 1))) ((base.put (.r 0) 0x000000C8).put (.r 1) 0x00000070))
      (fun t => [(t.get (.r 0)).toNat]) = some [0x000000B1] := by decide
/-- V270. -/
theorem test_ash :
    seen (exec (.ash (.r 0) (.reg (.r 1))) ((base.put (.r 0) 0xC0000000).put (.r 1) 0x01))
      (fun t => [(t.get (.r 0)).toNat, (t.st &&& 0x7F).toNat]) = some [0x80000000, 0x9] := by decide
/-- V279. -/
theorem test_lsh :
    seen (exec (.lsh (.r 0) (.reg (.r 1))) ((base.put (.r 0) 0x80000001).put (.r 1) 0x61))
      (fun t => [(t.get (.r 0)).toNat, (t.st &&& 0x7F).toNat]) = some [0x00000001, 0x0] := by decide
/-- V284. -/
theorem test_rol :
    seen (exec (.rol (.r 0)) (withSt (base.put (.r 0) 0x40000000) 1))
      (fun t => [(t.get (.r 0)).toNat, (t.st &&& 0x7F).toNat]) = some [0x80000000, 0x8] := by decide
/-- V286. -/
theorem test_rolc :
    seen (exec (.rolc (.r 0)) (withSt (base.put (.r 0) 0x00000000) 1))
      (fun t => [(t.get (.r 0)).toNat, (t.st &&& 0x7F).toNat]) = some [0x00000001, 0x0] := by decide
/-- V289. -/
theorem test_ror :
    seen (exec (.ror (.r 0)) (withSt (base.put (.r 0) 0x80000000) 1))
      (fun t => [(t.get (.r 0)).toNat, (t.st &&& 0x7F).toNat]) = some [0x40000000, 0x0] := by decide
/-- V291. -/
theorem test_rorc :
    seen (exec (.rorc (.r 0)) (withSt (base.put (.r 0) 0x00000000) 1))
      (fun t => [(t.get (.r 0)).toNat, (t.st &&& 0x7F).toNat]) = some [0x80000000, 0x8] := by decide
/-- V306. -/
theorem test_addf :
    seen (exec (.addf 0 (.reg 1)) ((base.putF 0 0x2000000000).putF 1 0x0000000000))
      (fun t => [(t.getF 0).toNat, (t.st &&& 0x7F).toNat]) = some [0x2000000000, 0x0] := by decide
/-- V312. -/
theorem test_subf :
    seen (exec (.subf 0 (.reg 1)) ((base.putF 0 0x8000000000).putF 1 0x0000000000))
      (fun t => [(t.getF 0).toNat, (t.st &&& 0x7F).toNat]) = some [0xFF80000000, 0x8] := by decide
/-- V313. -/
theorem test_cmpf :
    seen (exec (.cmpf 0 (.reg 1)) ((base.putF 0 0x0000000000).putF 1 0x0100000000))
      (fun t => [(t.getF 0).toNat, (t.st &&& 0x7F).toNat]) = some [0x0000000000, 0x8] := by decide
/-- V319. -/
theorem test_mpyf :
    seen (exec (.mpyf 0 (.reg 1)) ((base.putF 0 0x4000000000).putF 1 0x4000000000))
      (fun t => [(t.getF 0).toNat, (t.st &&& 0x7F).toNat]) = some [0x7F7FFFFFFF, 0x22] := by decide
/-- V327. -/
theorem test_negf :
    seen (exec (.negf 0 (.reg 1)) ((base.putF 0 0x7F80000000).putF 1 0x7F80000000))
      (fun t => [(t.getF 0).toNat, (t.st &&& 0x7F).toNat]) = some [0x7F7FFFFFFF, 0x22] := by decide
/-- V332. -/
theorem test_absf :
    seen (exec (.absf 0 (.reg 1)) (base.putF 1 0x7F80000000))
      (fun t => [(t.getF 0).toNat, (t.st &&& 0x7F).toNat]) = some [0x7F7FFFFFFF, 0x22] := by decide
/-- V361. -/
theorem test_rnd :
    seen (exec (.rnd 0 (.reg 1)) (base.putF 1 0x007FFFFF80))
      (fun t => [(t.getF 0).toNat, (t.st &&& 0x7F).toNat]) = some [0x0100000000, 0x0] := by decide
/-- V371. -/
theorem test_norm :
    seen (exec (.norm 0 (.reg 1)) (base.putF 1 0x00C0000000))
      (fun t => [(t.getF 0).toNat, (t.st &&& 0x7F).toNat]) = some [0xFE80000000, 0x8] := by decide
/-- V335. -/
theorem test_subrf :
    seen (exec (.subrf 0 (.reg 1)) ((base.putF 0 0x0000000000).putF 1 0x0100000000))
      (fun t => [(t.getF 0).toNat, (t.st &&& 0x7F).toNat]) = some [0x0000000000, 0x0] := by decide
/-- V343. -/
theorem test_fix :
    seen (exec (.fix (.r 0) (.reg 1)) (base.putF 1 0x8000000000))
      (fun t => [(t.get (.r 0)).toNat, (t.st &&& 0x7F).toNat]) = some [0x00000000, 0x4] := by decide
/-- V353. -/
theorem test_float :
    seen (exec (.float 0 (.reg 1)) (base.putF 1 0xFFFFFFFD))
      (fun t => [(t.getF 0).toNat, (t.st &&& 0x7F).toNat]) = some [0x01C0000000, 0x8] := by decide
/-- V383. -/
theorem test_rcpf :
    seen (exec (.rcpf 0 (.reg 1)) (base.putF 1 0x8000000000))
      (fun t => [(t.getF 0).toNat, (t.st &&& 0x3E).toNat]) = some [0x7F7FFFFFFF, 0x22] := by decide
/-- V390. -/
theorem test_rsqrf :
    seen (exec (.rsqrf 0 (.reg 1)) (base.putF 1 0x8000000000))
      (fun t => [(t.getF 0).toNat, (t.st &&& 0x3E).toNat]) = some [0x7F7FFFFFFF, 0x22] := by decide
/-- V396. -/
theorem test_toieee :
    seen (exec (.toieee 0 (.reg 1)) (base.putF 1 0x8100000000))
      (fun t => [(t.st &&& 0x7F).toNat]) = some [0x4] := by decide
/-- V407. -/
theorem test_frieee :
    seen (exec (.frieee 0 (.ind ⟨.plain,0⟩ 0)) (poke (base.put (.ar 0) 0x2FFC00) 0x2FFC00 0x007FFFFF))
      (fun t => [(t.getF 0).toNat, (t.st &&& 0x7F).toNat]) = some [0x8000000000, 0x4] := by decide
/-- V417. -/
theorem test_lb :
    seen (exec (.lb 3 (.r 2) (.reg (.r 1))) ((base.put (.r 1) 0xABCDEF12).put (.r 2) 0x12345678))
      (fun t => [(t.get (.r 2)).toNat, (t.st &&& 0x7F).toNat]) = some [0xFFFFFFAB, 0x8] := by decide
/-- V420. -/
theorem test_lbu :
    seen (exec (.lbu 2 (.r 2) (.reg (.r 1))) ((base.put (.r 1) 0xABCDEF12).put (.r 2) 0x12345678))
      (fun t => [(t.get (.r 2)).toNat, (t.st &&& 0x7F).toNat]) = some [0x000000CD, 0x0] := by decide
/-- V423. -/
theorem test_lh :
    seen (exec (.lh 1 (.r 2) (.reg (.r 1))) ((base.put (.r 1) 0xABCDEF12).put (.r 2) 0x12345678))
      (fun t => [(t.get (.r 2)).toNat, (t.st &&& 0x7F).toNat]) = some [0xFFFFABCD, 0x8] := by decide
/-- V425. -/
theorem test_lhu :
    seen (exec (.lhu 1 (.r 2) (.reg (.r 1))) ((base.put (.r 1) 0xABCDEF12).put (.r 2) 0x12345678))
      (fun t => [(t.get (.r 2)).toNat, (t.st &&& 0x7F).toNat]) = some [0x0000ABCD, 0x0] := by decide
/-- V428. -/
theorem test_lwl :
    seen (exec (.lwl 2 (.r 2) (.reg (.r 1))) ((base.put (.r 1) 0xABCDEF12).put (.r 2) 0x12345678))
      (fun t => [(t.get (.r 2)).toNat, (t.st &&& 0x7F).toNat]) = some [0xEF125678, 0x8] := by decide
/-- V432. -/
theorem test_lwr :
    seen (exec (.lwr 2 (.r 2) (.reg (.r 1))) ((base.put (.r 1) 0xABCDEF12).put (.r 2) 0x12345678))
      (fun t => [(t.get (.r 2)).toNat, (t.st &&& 0x7F).toNat]) = some [0x1234ABCD, 0x0] := by decide
/-- V436. -/
theorem test_mb :
    seen (exec (.mb 2 (.r 2) (.reg (.r 1))) ((base.put (.r 1) 0xABCDEF12).put (.r 2) 0x12345678))
      (fun t => [(t.get (.r 2)).toNat, (t.st &&& 0x7F).toNat]) = some [0x12125678, 0x0] := by decide
/-- V439. -/
theorem test_mh :
    seen (exec (.mh 1 (.r 2) (.reg (.r 1))) ((base.put (.r 1) 0xABCDEF12).put (.r 2) 0x12345678))
      (fun t => [(t.get (.r 2)).toNat, (t.st &&& 0x7F).toNat]) = some [0xEF125678, 0x8] := by decide
/-- V158. -/
theorem test_ldi :
    seen (exec (.ldi (.ar 2) (.imm 0x7fff)) (withSt base 4))
      (fun t => [(t.get (.ar 2)).toNat, (t.st &&& 0x4).toNat]) = some [0x00007FFF, 0x4] := by decide
/-- V161. -/
theorem test_ldhi :
    seen (exec (.ldhi (.r 2) 0xffff) (base.putF 2 0x07ABCDEF12))
      (fun t => [(t.getF 2).toNat]) = some [0x07FFFF0000] := by decide
/-- V164. -/
theorem test_lde :
    seen (exec (.lde 5 (.reg 0)) ((base.putF 0 0x8012345678).putF 5 0x0A00056F1E))
      (fun t => [(t.getF 5).toNat]) = some [0x8000000000] := by decide
/-- V166. -/
theorem test_ldm :
    seen (exec (.ldm 2 (.reg 1)) ((base.putF 1 0x0389ABCDEF).putF 2 0x7F00000001))
      (fun t => [(t.getF 2).toNat]) = some [0x7F89ABCDEF] := by decide
/-- V170. -/
theorem test_ldf :
    seen (exec (.ldf 0 (.imm 0x7800)) (base))
      (fun t => [(t.getF 0).toNat, (t.st &&& 0xC).toNat]) = some [0x0780000000, 0x8] := by decide
/-- V175. -/
theorem test_ldfCond :
    seen (exec (.ldfCond .eq 5 (.reg 3)) (withSt (base.putF 3 0x022c000000) 4))
      (fun t => [(t.getF 5).toNat, (t.st &&& 0x4).toNat]) = some [0x022C000000, 0x4] := by decide
/-- V177. -/
theorem test_ldiCond :
    seen (exec (.ldiCond .gt (.r 1) (.imm 0xfffb)) (withSt (base.put (.r 1) 7) 4))
      (fun t => [(t.get (.r 1)).toNat]) = some [0x00000007] := by decide
/-- V178. -/
theorem test_ldpk :
    seen (exec (.ldpk 0xffff) (base.put .dp 0x2f))
      (fun t => [(t.get (.dp)).toNat]) = some [0x0000FFFF] := by decide
/-- V179. -/
theorem test_ldp :
    seen (exec (.ldp 0x2f) (base))
      (fun t => [(t.get (.dp)).toNat]) = some [0x0000002F] := by decide
/-- V180. -/
theorem test_lda :
    seen (exec (.lda (.ar 1) (.mem (.ind ⟨.indexed .disp .postAdd,0⟩ 1))) (poke (base.put (.ar 0) 0x2ffc00) 0x2ffc00 0x1234))
      (fun t => [(t.get (.ar 1)).toNat, (t.get (.ar 0)).toNat]) = some [0x00001234, 0x002FFC01] := by decide
/-- V181. -/
theorem test_push :
    seen (exec (.push (.r 6)) ((base.put .sp 0x2fff00).putF 6 0x0589ABCDEF))
      (fun t => [(t.get (.sp)).toNat, (Memory.readWord t.mem 0x002FFF01).toNat]) = some [0x002FFF01, 0x89ABCDEF] := by decide
/-- V183. -/
theorem test_pop :
    seen (exec (.pop .sp) (poke (base.put .sp 0x2fff01) 0x2fff01 0x2ffe00))
      (fun t => [(t.get (.sp)).toNat]) = some [0x002FFE00] := by decide
/-- V185. -/
theorem test_pushf :
    seen (exec (.pushf 2) ((base.put .sp 0x2fff00).putF 2 0x8000000000))
      (fun t => [(Memory.readWord t.mem 0x002FFF01).toNat]) = some [0x80000000] := by decide
/-- V186. -/
theorem test_popf :
    seen (exec (.popf 4) (poke (base.put .sp 0x2fff01) 0x2fff01 0x80000000))
      (fun t => [(t.getF 4).toNat, (t.st &&& 0xC).toNat]) = some [0x8000000000, 0x4] := by decide
/-- V187. -/
theorem test_stik :
    seen (exec (.stik 0x10 (.ind ⟨.plain,0⟩ 0)) (base.put (.ar 0) 0x2ffc10))
      (fun t => [(Memory.readWord t.mem 0x002FFC10).toNat]) = some [0xFFFFFFF0] := by decide
/-- V190. -/
theorem test_sti :
    seen (exec (.sti (.r 4) (.dir 0xfc11)) ((base.put .dp 0x2f).putF 4 0x0a80000001))
      (fun t => [(Memory.readWord t.mem 0x002FFC11).toNat]) = some [0x80000001] := by decide
/-- V191. -/
theorem test_stf :
    seen (exec (.stf 2 (.ind ⟨.plain,1⟩ 0)) ((base.put (.ar 1) 0x2ffc10).putF 2 0x057B4000FF))
      (fun t => [(Memory.readWord t.mem 0x002FFC10).toNat]) = some [0x057B4000] := by decide

/-- 60 R665: TINT0 taken, then RETIU. -/
def example665 : State :=
  { poke (poke base 0x2FF802 0x2FF900) 0x2FF900 0x78000000 with
    ivtp := 0x2FF800, st := 0x2800, iie := 1, sp := 0x2FFC00, pc := 0x2FFA10, iif := 0x01000000 }

theorem test_interrupt_entry_of_R665 :
    seen (step example665) (fun t => [t.pc, t.st, t.sp, Memory.readWord t.mem 0x2FFC01, t.iif])
      = some [0x2FF900, 0x4C00, 0x2FFC01, 0x2FFA10, 0] := by decide

theorem test_return_of_R665 :
    seen (exec (.retiCond .u)
        (poke { base with sp := 0x2FFC01, st := 0x4C00, pc := 0x2FF900 } 0x2FFC01 0x2FFA10))
      (fun t => [t.pc, t.st, t.sp]) = some [0x2FFA10, 0x6800, 0x2FFC00] := by decide

/-- The word of `LDI 5,R1`, placed as the interface places it, is the first instruction after reset. -/
theorem test_first_instruction_after_reset :
    seen (step (State.reset.withFetchWord 32 0x08610005)) (fun t => (t.get (.r 1), t.pc)) = some (5, 0x2FF801) := by decide

theorem test_decodeTableWord : decodeTableWord 32 0x08610005 = some (.ldi (.r 1) (.imm 5)) := by decide

/-- A delayed branch leaves its slots to be run; BcondAT annuls them when it branches (V50). -/
theorem test_bzat_taken :
    seen (exec (decode 0x6A650005 |>.toOption.getD .idle) (withSt base 4)) (fun t => (t.pc, t.delay))
      = some (0x2FF801, some ⟨.three, 0x2FF808, true, .branch⟩) := by decide

/-- TRAPU 5: the vector is read at TVTP + 5. -/
theorem test_trap :
    seen (exec (.trapCond .u 5) (poke { base with tvtp := 0x2FFA00, sp := 0x2FF900, st := 0x2000 } 0x2FFA05 0x2FFB00))
      (fun t => [t.pc, t.st, t.sp, Memory.readWord t.mem 0x2FF901])
      = some [0x2FFB00, 0x4400, 0x2FF901, 0x2FF801] := by decide

/-- MPYI3 || ADDI3 with P = 10: the product of the registers, the sum of the memory words (45 R469). -/
theorem test_multiply_add_p10 :
    seen (exec (.mpyi3Addi3 ⟨2, false, true, 4, 5, ⟨.plain, 0⟩, ⟨.plain, 1⟩⟩)
        (poke (poke ((w0.put (.r 4) 6).put (.r 5) 7) 0x2FFA00 100) 0x2FFA01 11))
      (fun t => (t.get (.r 0), t.get (.r 3))) = some (42, 111) := by decide

/-- SUBI3 || STI: memory minus register, the old register stored (45 R462). -/
theorem test_parallel_subtract :
    seen (exec (.subi3Sti ⟨2, 1, 2, ⟨.plain, 1⟩, ⟨.plain, 0⟩⟩)
        (poke ((w0.put (.r 1) 3).put (.r 2) 9) 0x2FFA00 10))
      (fun t => (t.get (.r 2), Memory.readWord t.mem 0x2FFA01)) = some (7, 9) := by decide

/-- ADDI3 with two indirect operands on one ARn: the field in bits 15–8 wins (40 R213). -/
theorem test_two_modifications_of_one_register :
    seen (exec (.addi3 (.r 0) (.indInd ⟨.indexed .disp .postSub, 0⟩ ⟨.indexed .ir1 .postAdd, 0⟩)) (poke w0 0x2FFA00 4))
      (fun t => (t.get (.r 0), t.get (.ar 0))) = some (8, 0x2FF9FF) := by decide

/-- LDII takes the commutator (66 R562), and no ordinary load does. -/
theorem test_commutator_semaphore :
    seen (exec (.ldii (.r 0) (.ind ⟨.plain, 0⟩ 0)) (w0.put (.ar 0) 0x300000)) (fun t => (t.get (.r 0), t.dev.owner))
      = some (0, .mine)
    ∧ seen (exec (.ldi (.r 0) (.mem (.ind ⟨.plain, 0⟩ 0))) (w0.put (.ar 0) 0x300000)) (fun t => (t.get (.r 0), t.dev.owner))
      = some (1, .free) := by decide

/-- RPTS 1 with the next word: two passes (43 R372). -/
theorem test_rpts :
    seen (exec (.rpts (.imm 1)) base) (fun t => [t.rc, t.rs, t.re, t.st]) = some [1, 0x2FF801, 0x2FF801, 0x100] := by decide

/-- The fetch behind a branch passes the cache (70 R720, Example 5.46). -/
theorem test_dummyFetch :
    (({ w0 with pc := 0x80000004, st := 0x800, mem := Memory.writeWord [] 0x80000005 7
                dev := { w0.dev with globalControl := 0x1E000010 } } : State).ahead (.br 0)).cache.lookup 0x80000005
      = some 7 := by decide

/-- `LDI 7,AR1` holds back the decode of `MPYF *AR2,R0` behind it for two cycles, in which the word behind that one is fetched
twice more, here on the global bus without a cache (70 R721, Example 5.48). -/
theorem test_refetch :
    (⟨0, 0, 0⟩ : Busy).after (.ldi (.ar 1) (.imm 7)) = ⟨2, 0, 0⟩
      ∧ (({ w0 with pc := 0x80000004, busy := ⟨2, 0, 0⟩, dev := { w0.dev with globalControl := 0x1E000010 } } : State).ahead
          (.mpyf 0 (.mem (.ind ⟨.plain, 2⟩ 0)))).outputs.length = 2 := by decide

/-- SWI leaves the core stuck at its place (43 R369, 92 D63), and so does a word that is no encoding (92 D41). -/
theorem test_swi_sticks : seen (exec .swi base) (fun t => (t.phase, t.pc)) = some (.stuck, 0x2FF800) := by decide
theorem test_undefined_word_sticks :
    seen (step (State.reset.withFetchWord 32 0x6A0B0000)) (fun t => (t.phase, t.pc)) = some (.stuck, 0x2FF800) := by decide

/-- The check value of the CRC-8 with polynomial 31h and start FFh over the characters 1 to 9 is F7h (70 R715). -/
theorem test_crc8 : [0x31, 0x32, 0x33, 0x34, 0x35, 0x36, 0x37, 0x38, 0x39].foldl crc8 0xFF = 0xF7 := by decide +kernel

/-- The loader on pins 0010: to the UART for core 1; then RS is taken (70 R711, R716). -/
theorem test_boot_uart :
    seen (step { State.reset with phase := .boot ⟨.check, .memory 0 32, none⟩, pins := { Pins.reset with iiof := 2 } })
      (fun t => t.phase) = some (.boot ⟨.localBus .uart false, .memory 0 32, none⟩)
    ∧ seen (step { State.reset with phase := .boot ⟨.acquire .uart false, .memory 0 32, none⟩
                                    dev := { State.reset.dev with localControl := 0x1EF78000 } })
      (fun t => (t.phase, t.dev.owner, t.lockLocal)) = some (.boot ⟨.connect .uart false, .memory 0 32, none⟩, .mine, false) := by
  decide

/-- A script run to its end alone, with nothing on the bus from other terminals and the registers `now` there: its effects, and
the memory. -/
def runAlone (now : Mil) (mem : List Host.Cell) : MilScript Unit → List MilEffect × List Host.Cell
  | .done _ => ([], mem)
  | .read i k => runAlone now mem (k (milRead mem i))
  | .write i v k => runAlone now (milWrite mem i v) k
  | .effect e k => let x := runAlone now mem k; (e :: x.1, x.2)
  | .await k => runAlone now mem (k ⟨[], [], 0, 0, 0⟩ now)

/-- A command of the controller in loop-back, run to its end: the device and its memory. -/
def commanded (m : Mil) (mem : List Host.Cell) : Mil × List Host.Cell :=
  let x := runAlone m mem m.script
  (x.1.foldl MilEffect.apply m, x.2)

/-- Consecutive cells. -/
def cells (mem : List Host.Cell) (i : BitVec 12) (n : Nat) : List (BitVec 16) :=
  (List.range n).map fun k => milRead mem (i + BitVec.ofNat 12 k)

/-- The 1553 device of the loop-back command of 66 R612 with broadcasts let in, and the cells it starts with. -/
def loopDevice : Mil := { Mil.reset 0 with cnr0 := 4, cnr1 := 0x17, acio := 0x400, command := .io, watch0 := 0x8F78 }
def loopCells : List Host.Cell :=
  milWrite (milWrite (milWrite (milWrite [] 0x400 0xF821) 0x401 0x408) 0x408 0x1234) 0x41 0x6410

/-- It leaves LCW, the stored word, the flag F, the word in ISIO and the monitor's message (R608–R611). -/
theorem test_mil_loop_back :
    let x := commanded loopDevice loopCells
    (x.1.isr, x.1.bcw, x.1.acio, x.1.isio) = (0x805, 0, 0x402, [0x421])
      ∧ cells x.2 0 1 ++ cells x.2 0x41 1 ++ cells x.2 0x410 1 ++ cells x.2 0x800 4
        = [0xF821, 0xE410, 0x1234, 0x0145, 0xF821, 0x1234, 0x8F78] := by decide

/-- The same command in moves of one access each: three for its words, each counted in ACIO, then its end on the bus, then LCW. -/
theorem test_mil_word_by_word :
    let s : State := { w0 with dev := { w0.dev with rc := 0x40, mil := loopDevice }, mem := loopCells }
    let t := ((s.milWord true).milWord true).milWord true
    let u := (t.milEnd ⟨[], [], 0, 0, 0⟩).milWord true
    (t.dev.mil.acio, milRead t.mem 0, milRead u.mem 0, u.dev.mil.isr, u.dev.milRun.isSome) = (0x402, 0, 0xF821, 0, true) := by
  decide

/-- A message that passes while a command of loop-back is fetched: the command ends when the monitor has stored that one, and its
own message is stored behind it (66 R611). -/
theorem test_mil_monitor_order :
    let s : State := { w0 with dev := { w0.dev with rc := 0x40, mil := loopDevice }, mem := loopCells }
    let t := ((((s.milWord true).milWord true).milWord true).milHear ⟨false, 0x0821, none, [], [0x0800], 0, 0⟩)
    let u := (fun x : State => x.milWord false)^[5] t
    let v := (fun x : State => x.milWord true)^[9] (u.milEnd ⟨[], [], 0, 0, 0⟩)
    decide ((t.milEnd ⟨[], [], 0, 0, 0⟩).dev.milRun = t.dev.milRun)
      ∧ (u.dev.milHeard.isSome, u.dev.mil.monitorNext, v.dev.milRun.isSome, v.dev.mil.monitorCount, v.dev.mil.monitorNext)
        = (false, 0x805, false, 2, 0x80A)
      ∧ cells v.mem 0x801 2 ++ cells v.mem 0x806 2 = [0x0821, 0x0800, 0xF821, 0x1234] := by
  decide

/-- A broadcast exchange in loop-back whose transmitting side, the device's own terminal, refuses with BUSY: too few words, for
the controller, for the terminal, for the monitor; LCW is the second command word (66 R609–R611). -/
theorem test_mil_busy_exchange :
    let x := commanded { Mil.reset 0 with cnr1 := 0x17, acio := 0x400, command := .exchange }
      (milWrite (milWrite (milWrite [] 0x400 0xF821) 0x401 0x0421) 0x21 0x2000)
    (x.1.bcw, x.1.bcwRt, cells x.2 0 1 ++ cells x.2 0x800 4)
      = (0b00110, 0b00011, [0x0421, 0x99C6, 0xF821, 0x0421, 0x0008]) := by decide

/-- Two words queued and a request during the first: the token passes between them, and back again one word is sent (65 R515). -/
theorem test_port_alternates :
    let p := (((Port.reset 0).push 1).push 2).ask.send
    (p.input, p.creq, p.outFifo, (p.grant.ask.send).input, (p.grant.ask.send).outFifo) = (true, true, [2], true, []) := by
  decide

/-- An NMI edge ends a DMA access that holds the peripheral bus (10 R33, 65 R513). -/
theorem test_nmi_frees_the_bus :
    let s : State := { w0 with st := 0x80000, dmaHeld := some ⟨0, .fetch false, 0x100041, .fifo⟩, pins := { w0.pins with nmi := false } }
    (s.peripheralHeld .plain, s.look.peripheralHeld .plain, s.look.dmaHeld.map (·.why)) = (true, false, some .granted) := by
  decide

/-- A half reset while an access is in progress forgets it, and STATUS shows one in progress (65 R524). -/
theorem test_dma_access_in_progress :
    let c : DmaChannel := { DmaChannel.reset with control := 0x00400000, access := some false }
    (c.status false, (c.setControl true 0).access, (c.setControl true 0x00004000).access, (c.setControl true 0x01004000).access)
      = (3, none, none, some false) := by decide

/-- A reserved address of the local bus waits without a strobe (20 R121). -/
theorem test_reserved_local_address :
    waits (memRead .plain 0x714000 w0) (.reserved .plain) = true ∧ (w0.setLock 0x714000 false).lockLocal = true := by decide

/-- Two instructions at the program counter, the first of them executed. -/
def firstOf (s : State) (i j : Instr) : Host.Outcome State Fault Refusal :=
  step (poke (poke s 0x2FF800 (encode i)) 0x2FF801 (encode j))

/-- What PUSH has stored in front of another instruction. -/
def pushedBefore (i j : Instr) : Option Word := seen (firstOf w0 i j) fun t => Memory.readWord t.mem 0x2FF901

/-- `PUSH DP / LDPK 7` pushes the new DP (40 R228); so does `PUSH AR1 / LDA 5,AR1` (70 R729), but not where the decode of LDA
is held back, as it addresses with the group that PUSH reads (R721). -/
theorem test_early_loads :
    (pushedBefore (.push .dp) (.ldpk 7), pushedBefore (.push (.ar 1)) (.lda (.ar 1) (.imm 5)),
        pushedBefore (.push (.ar 1)) (.lda (.ar 1) (.mem (.ind ⟨.plain, 2⟩ 0))))
      = (some 7, some 5, some 0x2FFA01) := by decide

/-- LDP acts as early as LDPK (70 R729). So does an LDA from a register of the peripheral bus, here the global bus control; one of a
register behind a delayed branch, which goes to it; and one from an input FIFO, whose word is the second where the instruction in
front takes the first. -/
theorem test_early_loads_of_all_kinds :
    let port : State := { w0.put (.ar 2) 0x100041 with dev := w0.dev.setPort 0 { w0.dev.ports[0] with inFifo := [5, 6] } }
    pushedBefore (.push .dp) (.ldp 7) = some 7
      ∧ seen (firstOf (w0.put (.ar 2) 0x100000) (.push .ir0) (.lda .ir0 (.mem (.ind ⟨.plain, 2⟩ 0))))
          (fun t => Memory.readWord t.mem 0x2FF901) = some 0x3E39FFF0
      ∧ seen (firstOf w0 (.bCondD .u (.reg (.ar 1))) (.lda (.ar 1) (.reg (.ar 3)))) (fun t => t.delay.map (·.dest)) = some (some 0x2FFA03)
      ∧ seen (firstOf port (.addi3 (.r 0) (.regInd .ir0 ⟨.plain, 2⟩)) (.lda .ir0 (.mem (.ind ⟨.plain, 2⟩ 0))))
          (fun t => (t.get (.r 0), (t.dev.ports[0]).inFifo)) = some (11, [6]) := by
  and_intros <;> decide

/-- With an image of the ROM supplied the core starts at its word 0, the reset vector, in place of the loader (70 R710, 92 D66). -/
theorem test_start_from_rom_image :
    seen (step { State.reset with romImage := some (Vector.replicate 4096 0x80000010) }) (fun t => (t.pc, t.phase))
      = some (0x80000010, .running) := by decide

/-- A break behind a waiting character sets BI at once, which a read of LSR clears for good; FE waits for the top of the FIFO
(66 R625). -/
theorem test_uart_break :
    let u := ({ Uart.reset with rx := [⟨0x41, false, false, false⟩] } : Uart).accept ⟨0x55, false, true, true⟩
    let v := (u.read 5 0).map Prod.snd
    (u.lsr, u.rx.length, v.map Uart.lsr, v.map fun v => v.popRx.lsr, v.map fun v => v.popRx.rx.map RxChar.data)
      = (0xF1, 2, some 0x61, some 0x69, some [0]) := by decide

/-- A store below 0010 0000h with ROMEN = 0 is one to a reserved address (20 R104). -/
theorem test_reserved_low_address :
    (match memWrite .plain 0x1000 5 { w0 with pins := { w0.pins with romen := false }, dev := { w0.dev with localControl := 0x1E000010 } } with
      | .fault (.reservedWrite a) => a | _ => 0) = 0x1000 := by decide

/-- The Ethernet device after reset with its MAC on and both sides enabled, the descriptors at bytes 0 and 40h. -/
def ethernetOn : Ethernet :=
  { Ethernet.reset with
    mac := Ethernet.reset.mac.set 0 1, txEnable := true, rxEnable := true, rxNext := 0x40 }

/-- Moves of the controller. -/
def ethernetMoves : Nat → Ethernet × List Host.Cell → Ethernet × List Host.Cell
  | 0, x => x
  | n + 1, x => ethernetMoves n (x.1.access x.2)

/-- A frame of five bytes is stored at the last word of the RAM and, past it, at the first, in six accesses: PacketSize read,
PacketStartAddr read, two words written, PacketSize written, NextDescriptor read (66 R580, R582). -/
theorem test_ethernet_receives :
    let m := Memory.writeWord (Memory.writeWord [] 0x710010 0xFFFC) 0x710011 0x80000000
    let e := ({ ethernetOn with txEnable := false } : Ethernet).receive ⟨5, [1, 2, 3]⟩
    let half := ethernetMoves 3 (e, m)
    let x := ethernetMoves 6 (e, m)
    (Memory.readWord half.2 0x713FFF, Memory.readWord half.2 0x710000, half.1.rxCount) = (1, 0, 0)
      ∧ (Memory.readWord x.2 0x710000, Memory.readWord x.2 0x710011, x.1.rxCount, x.1.rx, x.1.rxFifo) = (2, 5, 1, .idle, []) := by
  decide

/-- A packet is read word by word, sent, and its descriptor marked; the two sides take turns (66 R581, R582). -/
theorem test_ethernet_transmits :
    let m := Memory.writeWord (Memory.writeWord (Memory.writeWord [] 0x710000 0x100) 0x710001 4) 0x710040 7
    let x := ethernetMoves 3 ({ ethernetOn with rxEnable := false }, m)
    let y := ethernetMoves 1 (x.1.transmitted, x.2)
    let both := (ethernetOn.receive ⟨4, [1]⟩).access m
    (x.1.shown, x.1.txCount) = (some (.ethernetFrame 4 [7]), 0)
      ∧ (y.1.txCount, Memory.readWord y.2 0x710001) = (1, 0x80000004)
      ∧ (both.1.tx, (both.1.access both.2).1.rxOverflow) = (.sized 4, true) := by decide

/-- Padding and CRC in octets, by Table 7.6: none, a CRC alone, 60 or 64 and a CRC, with a tag and behind a header of four (66
R572). -/
theorem test_ethernet_padding :
    let l := (List.replicate 12 (0 : Byte)) ++ [0x81, 0x00, 5]
    ([0b0000, 0b0001, 0b0010, 0b0110, 0b1010].map fun mode => (ethernetFramed mode 0 l).length) = [15, 19, 64, 68, 68]
      ∧ (ethernetFramed 0b1010 0 (0 :: l)).length = 64 ∧ (ethernetFramed 0b1010 4 ([0, 0, 0, 0] ++ l)).length = 72
      ∧ (ethernetFramed 0b0010 0 l).take 15 = l := by decide

/-- An endpoint IN 1 and an endpoint OUT 1, each of 256 bytes, as R592 codes them; function address 5. -/
def usbOn : Usb :=
  ((({ Usb.reset with csr := 0x80, fa := 5 } : Usb).setEndpoint 3 ⟨0x06040100, 0, 0, 0x40000000⟩).setEndpoint 4
    ⟨0x0A040100, 0, 0x40000000, 0⟩)

/-- A token reaches the endpoint that has its number and takes its direction; one for an endpoint that does not exist is EPERR,
one for another function nothing; a word from the host is stored, and then the transaction ends with RD (66 R590–R594). -/
theorem test_usb_receives :
    let x := ({ usbOn with transfer := some (.store 4 0 [9] 0x200) } : Usb).access []
    let y := x.1.access x.2
    (usbOn.find 1 .output, usbOn.find 1 .input, (usbOn.begin ⟨5, 2, .output, 4, [9], 0, 0⟩).src,
        (usbOn.begin ⟨6, 1, .output, 4, [9], 0, 0⟩).transfer) = (some 4, some 3, 0x00400000, none)
      ∧ (Memory.readWord x.2 0x610000, x.1.src, y.1.src, (y.1.endpoints[4]).int, y.1.transfer) = (9, 0, 0x10, 0x200, none) := by
  decide

/-- The buffers of the two directions and their limit; a packet to the host is read word by word and shown under its endpoint
number (66 R592, R594). -/
theorem test_usb_sends :
    let e : UsbEndpoint := ⟨0, 0, 0x10, 0x40000000⟩
    let x := ({ usbOn with transfer := some (.send 3 1 4 0 1 [] 0x400) } : Usb).access (Memory.writeWord [] 0x610000 9)
    (e.buffer .input, e.buffer .output, (usbOn.endpoints[3]).limit .input 0, (usbOn.endpoints[3]).limit .output 0)
        = (0x40000000, 0x10, 256, 0)
      ∧ (x.1.shown, ((x.1.access x.2).1.endpoints[3]).int) = (some (.usbPacket 1 4 [9]), 0x400) := by decide

/-- Of the packets of the USB device the loader counts those received; the thirty-second ends its wait (70 R715). -/
theorem test_boot_counts_received_packets :
    let usb := (usbOn.endpointEvent 3 0x400).endpointEvent 4 0x002
    let s (u : Usb) : State :=
      { w0 with st := 0x2000, iif := 0xD, dev := { w0.dev with rc := 0x10, usb := u, localControl := 0x1EF78000 } }
    let stage (u : Usb) : Option BootStage :=
      match (s u).bootPackets ⟨.usbPackets 31, .memory 0 32, none⟩ 31 with
      | .ok _ t => match t.phase with | .boot b => some b.stage | _ => none
      | _ => none
    (stage usb, stage (usb.endpointEvent 4 0x200)) = (some (.usbPackets 31), some (.width 0x610600)) := by decide

/-- The baud counter starts with the low byte of the divisor, so that a high byte alone moves nothing (66 R626). -/
theorem test_uart_baud_counter :
    let u : Uart := { Uart.reset with lcr := 0x80 }
    let c : RxChar := ⟨0x41, false, false, false⟩
    ((u.write 1 1).map fun w => (w.receive c).rx.length, (u.write 0 1).map fun w => (w.receive c).rx.length) = (some 0, some 1) := by
  decide

/-- An NMI edge also serves a CPU access that waits behind the DMA's (65 R513). -/
theorem test_nmi_serves_the_cpu :
    ({ w0 with st := 0x80000, waiting := some .peripheral, pins := { w0.pins with nmi := false } } : State).look.dev.busGrant = true := by
  decide

/-! ### The hypotheses of the statements are met

Each theorem names the statement; a statement with several clauses has a case for each, at the ends of its ranges. -/

/-- The fetch that `Obligations.StepRunsDecoded` speaks of: the word, the delay slots, and whether the repeat mode forbids
the decoded instruction. -/
def fetched (s : State) (rest : List Input) : Option (Word × Option Delay × Bool) :=
  match (({ s.sample with inputs := rest } : State).forward).fetchWord with
  | .ok w t => some (w, t.delay, (decode w).toOption.elim true (repeatForbids t))
  | _ => none

/-- `w0` with `LDI 5,R1` at the program counter. -/
def placed : State := poke w0 0x2FF800 0x08610005

/-- `w0` with AR0 at the start of global memory, STRB0 active for all of it and no external ready. -/
def globalState : State :=
  { w0.put (.ar 0) 0x80000000 with dev := { w0.dev with globalControl := 0x1E000010 } }

/-- A repeat mode: a block from 2FF7FEh to its end. -/
def repeating (single : Bool) (re rc : Word) : State :=
  { withSt w0 0x100 with rs := 0x2FF7FE, re := re, rc := rc, repeatSingle := single }

theorem witness_DecodeOfEncode :
    (Instr.addi (.r 1) (.imm 5)).wellFormed = true := by decide

theorem witness_DecodedIsWellFormed :
    decode 0x08610005 = .ok (.ldi (.r 1) (.imm 5)) := by decide

theorem witness_StepRunsDecoded :
    placed.phase = .running ∧ placed.entering = none ∧ (({ placed.sample with inputs := [] } : State).forward).taken = none ∧ placed.inputs = []
      ∧ fetched placed [] = some (0x08610005, none, false) ∧ fetched { placed with inputs := [.cpu, .h1] } [.h1] = some (0x08610005, none, false)
      ∧ region placed.pins.romen placed.pc = .ram ∧ (placed.repeatMode && placed.repeatSingle && placed.irHeld) = false
      ∧ standardFlow (.ldi (.r 1) (.imm 5)) = false ∧ standardFlow (.br 0) = true
      ∧ placed.busy.hold (.ldi (.r 1) (.imm 5)) = 0 ∧ placed.busy.hold (.br 0) = 0
      ∧ 0x100000 ≤ placed.sequenced.pc.toNat ∧ placed.sequenced.pc.toNat < 0x300000
      ∧ 0x100000 ≤ ((0xFFFFF : Word) + 1).toNat ∧ ((0x2FFFFE : Word) + 1).toNat < 0x300000 := by
  and_intros <;> decide

theorem witness_StepRunsDecoded_slots :
    (fetched { placed with delay := some ⟨.one, 0, false, .branch⟩ } []).map (fun x => (x.1, x.2.1)) = some (0x08610005, some ⟨.one, 0, false, .branch⟩)
      ∧ (fetched { placed with delay := some ⟨.three, 0, true, .rptbd⟩ } []).map (fun x => (x.1, x.2.1)) = some (0x08610005, some ⟨.three, 0, true, .rptbd⟩)
      ∧ slotForbids .branch (.ldi (.r 1) (.imm 5)) = false ∧ slotForbids .rptbd (.ldi (.r 1) (.imm 5)) = false := by decide

theorem witness_UndefinedEncodingStops :
    (poke w0 0x2FF800 0x6A0B0000).sample.forward.taken = none ∧ (poke w0 0x2FF800 0x6A0B0000).entering = none
      ∧ { w0 with phase := .stuck }.inputs = [] ∧ { w0 with phase := .stuck }.entering = none
      ∧ goesOn (step { w0 with phase := .stuck, inputs := [.h1, .cpu] }) = true ∧ (fetched (poke w0 0x2FF800 0x6A0B0000) []).map (·.1) = some 0x6A0B0000
      ∧ decode 0x6A0B0000 = .error .undefinedCondition := by
  and_intros <;> decide

theorem witness_RepeatAlgorithm :
    w0.delay = none ∧ w0.repeatMode = false ∧ (repeating false 0x2FF802 1).repeatMode = true ∧ (repeating false 0x2FF802 1).delay = none
      ∧ (repeating false 0x2FF802 1).pc ≠ 0x2FF802 ∧ (repeating false 0x2FF800 1).pc = 0x2FF800
      ∧ ((repeating false 0x2FF800 1).rc - 1).msb = false ∧ ((repeating false 0x2FF800 0).rc - 1).msb = true
      ∧ (repeating false 0x2FF800 0).rs ≠ (repeating false 0x2FF800 0).re ∧ (repeating true 0x2FF800 0).repeatSingle = true := by decide

theorem witness_RepeatCount :
    (repeating true 0x2FF800 0).repeatMode = true ∧ (repeating true 0x2FF800 0).repeatSingle = true ∧ (repeating true 0x2FF800 0).delay = none
      ∧ (repeating true 0x2FF800 0).rc.msb = false ∧ (repeating true 0x2FF800 0x7FFFFFFF).rc.msb = false := by decide

theorem witness_RegisterFrame :
    goesOn (exec (.addi (.r 0) (.imm 1)) w0) = true ∧ Reg.r 1 ∉ modifies (.addi (.r 0) (.imm 1))
      ∧ Reg.rc ∉ modifies (.addi (.r 0) (.imm 1)) ∧ w0.repeatMode = false := by decide

theorem witness_StatusFrame :
    goesOn (exec (.addi (.r 0) (.imm 1)) w0) = true ∧ Reg.st ∉ modifies (.addi (.r 0) (.imm 1))
      ∧ 6 ∉ statusBits (.addi (.r 0) (.imm 1)) ∧ 8 ∉ statusBits (.addi (.r 0) (.imm 1)) ∧ w0.repeatMode = false := by decide

theorem witness_MemoryFrame :
    goesOn (exec (.push (.r 0)) w0) = true ∧ Memory.wf w0.mem = true
      ∧ coveredBy (storeAddresses w0.sequenced (.push (.r 0))) (4 * 0x2FF901 - 1) = false
      ∧ coveredBy (storeAddresses w0.sequenced (.push (.r 0))) (4 * 0x2FF901 + 4) = false := by decide

theorem witness_SpecialFrame :
    goesOn (exec (.addi (.r 0) (.imm 1)) w0) = true ∧ Reg.st ∉ modifies (.addi (.r 0) (.imm 1)) ∧ Reg.iif ∉ modifies (.addi (.r 0) (.imm 1)) := by decide

theorem witness_CircularStaysInBuffer :
    ∀ step ∈ ([-5, 0, 5] : List Int), (5 : Word).toNat < 2 ^ 16 ∧ 2 ^ 2 ≤ (5 : Word).toNat ∧ (5 : Word).toNat < 2 ^ (2 + 1)
      ∧ (0x2FFA04 : Word).toNat % 2 ^ (2 + 1) < 5 ∧ -(5 : Int) ≤ step ∧ step ≤ 5 := by decide

theorem witness_TwoIndirectOperands :
    (w0.indNew ⟨.indexed .disp .postAdd, 0⟩ implied).isSome = true ∧ w0.indNew ⟨.plain, 0⟩ implied = none
      ∧ region w0.pins.romen (w0.indAddr ⟨.indexed .disp .postAdd, 0⟩ implied) = .ram
      ∧ finishes (w0.fetchInd2 ⟨.indexed .disp .postAdd, 0⟩ ⟨.indexed .ir0 .postSub, 0⟩) = true := by decide

theorem witness_GeneralSource :
    w0.early = none ∧ region w0.pins.romen (w0.memAddr (.dir 0xFC00)) = .ram ∧ region w0.pins.romen (w0.memAddr (.ind ⟨.plain, 1⟩ 0)) = .ram := by decide

theorem witness_IntegerResultWritten :
    (withSt w0 0x8000).st.getLsbD 15 = true ∧ w0.st.getLsbD 15 = false ∧ Reg.ar 0 ≠ .st ∧ Reg.ar 0 ≠ .iif ∧ Reg.ar 0 ≠ .dp := by decide

theorem witness_ControlRegisterWrites :
    (∀ x : Fin 4, (0x1111 : Word).getLsbD (4 * x.val) ≠ (0x1111 : Word).getLsbD (4 * x.val + 1)
        ∧ (0x3333 : Word).getLsbD (4 * x.val) = (0x3333 : Word).getLsbD (4 * x.val + 1)
        ∧ (0 : Word).getLsbD (4 * x.val) = false ∧ (0 : Word).getLsbD (4 * x.val + 1) = false
        ∧ connectedTo w0.dev.rc w0.pins.core2 (iiofDevice x) = false) := by decide

theorem witness_LoadsWithFlags :
    finishes (w0.sequenced.sourceInt (.mem (.dir 0xFC00))) = true ∧ finishes (w0.sequenced.sourceFloat (.mem (.ind ⟨.plain, 0⟩ 0))) = true := by decide

theorem witness_LoadsWithoutFlags :
    finishes (w0.sequenced.sourceInt (.imm 1)) = true ∧ (Src.imm 1 : Src Reg) ≠ .reg (.ar 0) ∧ finishes (w0.sequenced.sourceFloat (.reg 1)) = true
      ∧ finishes (w0.sequenced.fetch .plain (.ind ⟨.plain, 0⟩ 0)) = true := by decide

theorem witness_LoadsWithoutFlags_early :
    region w0.pins.romen w0.sequenced.pc = .ram
      ∧ decode (Memory.readWord (poke w0 0x2FF801 0x1F70FFFF).mem w0.sequenced.pc) = .ok (.ldpk 0xFFFF)
      ∧ decode (Memory.readWord (poke w0 0x2FF801 (encode (.lda (.ar 0) (.imm 0x8000)))).mem w0.sequenced.pc) = .ok (.lda (.ar 0) (.imm 0x8000))
      ∧ decode (Memory.readWord (poke w0 0x2FF801 0x0870002F).mem w0.sequenced.pc) = .ok (.ldp 0x2F)
      ∧ decode (Memory.readWord (poke w0 0x2FF801 0x08610005).mem w0.sequenced.pc) = .ok (.ldi (.r 1) (.imm 5))
      ∧ (Reg.ar 0 ≠ .dp ∧ Reg.sp ≠ .dp) ∧ standardFlow (.push (.ar 0)) = false ∧ isLda (.push (.ar 0)) = false
      ∧ ldaDestination (.ar 7) = true ∧ ldaDestination .sp = true := by and_intros <;> decide

theorem witness_LoadsWithoutFlags_readBehind :
    (w0.busy.after (.push .ir0)).hold (.lda .ir0 (.mem (.ind ⟨.plain, 2⟩ 0))) = 0
      ∧ (w0.busy.after (.push .ir0)).hold (.lda .ir0 (.reg (.ar 3))) = 0 ∧ settled (.push .ir0) (.ar 3) = true
      ∧ standardFlow (.push .ir0) = false
      ∧ seen (exec (.push .ir0) { w0 with early := none }) (fun t =>
          (t.waiting, finishes (t.sequenced.sourceInt (.mem (.ind ⟨.plain, 2⟩ 0))), finishes (t.sequenced.sourceInt (.reg (.ar 3)))))
          = some (none, true, true)
      ∧ decode (Memory.readWord (poke w0 0x2FF801 (encode (.lda .ir0 (.mem (.ind ⟨.plain, 2⟩ 0))))).mem w0.sequenced.pc)
          = .ok (.lda .ir0 (.mem (.ind ⟨.plain, 2⟩ 0))) := by and_intros <;> decide

theorem witness_DelayedBranches_annul :
    (Instr.addi (.r 1) (.imm 5)).wellFormed = true ∧ slotUpdates (.addi (.r 1) (.imm 5)) = [] ∧ slotUpdates (.sti (.ar 1) (.ind ⟨.plain, 1⟩ 0)) = []
      ∧ (Instr.lda .sp (.imm 5)).wellFormed = true ∧ slotUpdates (.lda .sp (.imm 5)) = [.sp] ∧ Reg.ar 0 ∉ slotUpdates (.lda .sp (.imm 5)) := by decide

theorem witness_Stores :
    finishes (memWrite .plain (w0.sequenced.memAddr (.ind ⟨.indexed .disp .postAdd, 0⟩ 1)) (w0.sequenced.get (.r 1))
        (w0.sequenced.memUpdate (.ind ⟨.indexed .disp .postAdd, 0⟩ 1))) = true := by decide

theorem witness_StoredWordReadsBack :
    Memory.wf w0.mem = true ∧ region w0.pins.romen (w0.sequenced.memAddr (.ind ⟨.plain, 0⟩ 0)) = .ram
      ∧ goesOn (exec (.sti (.r 1) (.ind ⟨.plain, 0⟩ 0)) w0) = true := by decide

theorem witness_StoredWordReadsBack_global :
    region globalState.pins.romen (globalState.sequenced.memAddr (.ind ⟨.plain, 0⟩ 0)) = .global
      ∧ globalReady globalState.sequenced (globalState.sequenced.memAddr (.ind ⟨.plain, 0⟩ 0)) true = true
      ∧ globalState.populated (globalState.sequenced.memAddr (.ind ⟨.plain, 0⟩ 0)) = true
      ∧ Memory.wf globalState.mem = true ∧ goesOn (exec (.sti (.r 1) (.ind ⟨.plain, 0⟩ 0)) globalState) = true := by decide

theorem witness_WaitingAccess :
    waits (memRead .plain ((w0.put (.ar 0) 0x100071).sequenced.memAddr (.ind ⟨.plain, 0⟩ 0))
        ((w0.put (.ar 0) 0x100071).sequenced.memUpdate (.ind ⟨.plain, 0⟩ 0))) .fifo = true
      ∧ waits (memWrite .plain 0x100042 5
        { w0.sequenced with dev := w0.dev.setPort 0 { w0.dev.ports[0] with outFifo := [1, 2, 3, 4, 5, 6, 7, 8] } }) .fifo = true := by decide

theorem witness_Stack :
    finishes (w0.sequenced.push 5) = true ∧ finishes (memRead .plain w0.sequenced.sp w0.sequenced) = true := by decide

theorem witness_IntegerArithmetic :
    finishes (w0.sequenced.sourceInt (.reg (.r 1))) = true ∧ finishes (w0.sequenced.sourceInt (.imm 0x8000)) = true := by decide

theorem witness_Logic :
    finishes (w0.sequenced.sourceUint (.reg (.r 1))) = true ∧ finishes (w0.sequenced.sourceUint (.imm 0x8000)) = true := by decide

theorem witness_ShiftsAndRotates :
    finishes (w0.sequenced.sourceInt (.imm 0)) = true ∧ ((0 : Word).extractLsb' 0 7).toInt = 0
      ∧ ((1 : Word).extractLsb' 0 7).toInt = (1 : Nat) ∧ ((0x3F : Word).extractLsb' 0 7).toInt = (63 : Nat)
      ∧ ((0x20 : Word).extractLsb' 0 7).toInt = (32 : Nat) ∧ ((0x21 : Word).extractLsb' 0 7).toInt = (33 : Nat)
      ∧ ((0x60 : Word).extractLsb' 0 7).toInt = -((32 : Nat) : Int) ∧ ((0x5F : Word).extractLsb' 0 7).toInt = -((33 : Nat) : Int)
      ∧ ((0x7F : Word).extractLsb' 0 7).toInt = -((1 : Nat) : Int) ∧ ((0x40 : Word).extractLsb' 0 7).toInt = -((64 : Nat) : Int) := by decide

theorem witness_BytesAndHalfWords :
    finishes (w0.sequenced.sourceInt (.mem (.ind ⟨.plain, 0⟩ 0))) = true := by decide

theorem witness_ThreeOperandInteger :
    finishes (w0.sequenced.operandsInt (.regReg (.r 0) (.r 1))) = true ∧ finishes (w0.sequenced.operandsInt (.dispImm ⟨31, 0⟩ 0x80)) = true
      ∧ finishes (w0.sequenced.operandsInt (.indInd ⟨.plain, 0⟩ ⟨.plain, 1⟩)) = true
      ∧ region w0.pins.romen (w0.indAddr ⟨.plain, 0⟩ 1) = .ram ∧ region w0.pins.romen (w0.indAddr ⟨.indexed .disp .preAdd, 0⟩ 1) = .ram
      ∧ (∀ d ∈ ([0, 31] : List (BitVec 5)), region w0.pins.romen (w0.ar[(0 : Fin 8)] + d.setWidth 32) = .ram) := by decide

theorem witness_FloatArithmetic :
    finishes (w0.sequenced.sourceFloat (.imm 0x8000)) = true ∧ finishes (w0.sequenced.operandsFloat (.regReg 0 1)) = true := by decide

theorem witness_FloatConversions :
    finishes (w0.sequenced.sourceFloat (.reg 1)) = true ∧ finishes (w0.sequenced.fetch .plain (.dir 0xFC00)) = true := by decide

theorem witness_ConversionRoundTrips :
    ((0x01000000 : Word).extractLsb' 23 8).toNat = 2 ∧ ((0xFF7FFFFF : Word).extractLsb' 23 8).toNat = 254
      ∧ (0xFF800000 : Word).extractLsb' 23 8 = 255 ∧ (0x807FFFFF : Word).extractLsb' 23 8 = 0
      ∧ (0x00800000 : Word).extractLsb' 23 8 ≠ 0 ∧ (0x7F7FFFFF : Word).extractLsb' 23 8 ≠ 255
      ∧ (0x8000000000 : Ext).extractLsb' 32 8 = 0x80 ∧ (0x81FFFFFFFF : Ext).extractLsb' 32 8 = 0x81
      ∧ ((0x7F800000FF : Ext).extractLsb' 32 8 = 0x7F ∧ (0x7F800000FF : Ext).getLsbD 31 = true
        ∧ (0x7F800000FF : Ext).extractLsb' 8 23 = 0)
      ∧ ((0x8280000000 : Ext).extractLsb' 32 8 ≠ 0x80 ∧ (0x8280000000 : Ext).extractLsb' 32 8 ≠ 0x81
        ∧ (0x7F80000100 : Ext).extractLsb' 8 23 ≠ 0 ∧ (0x7F00000000 : Ext).getLsbD 31 = false) := by decide

theorem witness_RoundNormalizeEstimate :
    (0x8100000000 : Ext).extractLsb' 32 8 ≠ 0x80 ∧ (0x8000000000 : Ext).extractLsb' 32 8 = 0x80
      ∧ (0x0500000000 : Ext).extractLsb' 0 32 = 0 ∧ (0x8000000001 : Ext).extractLsb' 0 32 ≠ 0
      ∧ (exponent 0x8180000000 - (1 : Nat) ≤ -128 ∧ -128 < exponent 0x8280000000 - (1 : Nat))
      ∧ (exponent 0xA0FFFFFFFF - (32 : Nat) ≤ -128 ∧ -128 < exponent 0xA1FFFFFFFF - (32 : Nat))
      ∧ (Machine.Num.ofExt 0x0080000001).man ≠ -2 ^ 32 ∧ exponent 0x7E00000000 ≠ 127 ∧ exponent 0x7E00000000 ≠ -128
      ∧ exponent 0x8000000000 = -128 ∧ exponent 0x7F00000000 = 127 ∧ exponent 0x8180000000 ≠ -128
      ∧ ((2 : Int) ^ (32 - 31) ≤ 2 * (1 : Word).toInt ∧ (1 : Word).toInt < 2 ^ (32 - 31))
      ∧ (-(2 : Int) ^ (32 - 32) ≤ (0xFFFFFFFF : Word).toInt ∧ 2 * (0xFFFFFFFF : Word).toInt < -(2 : Int) ^ (32 - 32))
      ∧ (-(2 : Int) ^ (32 - 1) ≤ (0x80000000 : Word).toInt ∧ 2 * (0x80000000 : Word).toInt < -(2 : Int) ^ (32 - 1))
      ∧ exponent 0x8000000000 = -128 ∧ exponent 0x7F00000000 = 127 ∧ exponent 0x8100000000 = -127
      ∧ (0x7F00000000 : Ext).getLsbD 31 = false := by decide

theorem witness_Branches :
    w0.sequenced.cond .u = true ∧ w0.sequenced.cond .eq = false := by decide

theorem witness_DecrementBranches :
    w0.sequenced.cond .u = true ∧ w0.sequenced.cond .eq = false ∧ 0 ≤ ((w0.put (.ar 0) 1).ar[(0 : Fin 8)] - 1).toInt
      ∧ ((w0.put (.ar 0) 0).ar[(0 : Fin 8)] - 1).toInt < 0 := by decide

theorem witness_Calls :
    finishes (memWrite .plain (w0.sequenced.sp + 1) (w0.pc + 1) { w0.sequenced with sp := w0.sequenced.sp + 1 }) = true
      ∧ w0.sequenced.cond .u = true ∧ w0.early = none ∧ w0.sequenced.cond .eq = false := by decide

theorem witness_SubroutineReturn :
    finishes (memRead .plain w0.sequenced.sp w0.sequenced) = true ∧ w0.sequenced.cond .u = true ∧ w0.sequenced.cond .eq = false
      ∧ seen (exec (.retsCond .u) w0) (fun v => v.waiting) = some none := by decide

theorem witness_ExceptionReturns :
    finishes (memRead .plain w0.sequenced.sp w0.sequenced) = true ∧ w0.sequenced.cond .u = true ∧ w0.sequenced.cond .eq = false := by decide

theorem witness_Traps :
    finishes (memWrite .plain (w0.sequenced.sp + 1) (w0.pc + 1) { w0.sequenced.saveStatus with sp := w0.sequenced.sp + 1 }) = true
      ∧ finishes ((w0.sequenced.saveStatus.push (w0.pc + 1)).bind fun _ u => memRead .plain ((w0.tvtp &&& 0xFFFFFE00) + 511) u) = true
      ∧ finishes (memRead .plain ((w0.tvtp &&& 0xFFFFFE00) + 0) (w0.sequenced.saveStatus.put (.r 11) (w0.pc + 4))) = true
      ∧ w0.sequenced.cond .u = true ∧ w0.sequenced.cond .eq = false := by decide

theorem witness_Repeats :
    finishes (w0.sequenced.sourceUint (.imm 0xFFFF)) = true := by decide

theorem witness_IdleAndNop :
    finishes (w0.sequenced.fetch .plain (.ind ⟨.indexed .disp .postAdd, 0⟩ 1)) = true
      ∧ w0.onBus (w0.memAddr (.dir 0xFC00)) = false ∧ finishes (w0.sequenced.fetch .plain (.dir 0xFC00)) = true
      ∧ globalState.onBus (globalState.memAddr (.ind ⟨.plain, 0⟩ 0)) = true
      ∧ finishes (({ globalState with iack := false } : State).sequenced.fetch .plain (.ind ⟨.plain, 0⟩ 0)) = true := by
  and_intros <;> decide

theorem witness_Interlocked :
    finishes ((w0.setLock (w0.memAddr (.dir 0xFC00)) false).sequenced.fetch .interlocked (.dir 0xFC00)) = true
      ∧ finishes (memWrite .interlocked (w0.sequenced.memAddr (.dir 0xFC00)) 5 (w0.sequenced.memUpdate (.dir 0xFC00))) = true
      ∧ finishes ((w0.setLock (w0.memAddr (.dir 0xFC00)) false).sequenced.fetch .plain (.dir 0xFC00)) = true
      ∧ finishes ((globalState.setLock 0x80000000 false).sequenced.fetch .sigi (.ind ⟨.plain, 0⟩ 0)) = true
      ∧ finishes (memWrite .plain (w0.sequenced.memAddr (.dir 0xFC00)) 5 (w0.sequenced.memUpdate (.dir 0xFC00))) = true
      ∧ ([0x80000000, 0xFFFFFFFF] : List Word).all (fun a => decide (0x80000000 ≤ a.toNat)) = true
      ∧ ([0x300000, 0x300001, 0x400012, 0x4001FF, 0x713FFF] : List Word).all
          (fun a => decide (a.toNat < 0x80000000) && selectsStrobe true a) = true
      ∧ ([0, 0xFFFFF] : List Word).all (selectsStrobe false) = true
      ∧ ([0, 0xFFFFF, 0x100000, 0x2FFFFF, 0x300002, 0x714000, 0x7FFFFFFF] : List Word).any (selectsStrobe true) = false := by
  and_intros <;> decide

theorem witness_ParallelMoves :
    finishes (w0.sequenced.fetchInd2 ⟨.plain, 0⟩ ⟨.plain, 1⟩) = true
      ∧ finishes ((memRead .plain 0x2FFA00 (w0.sequenced.indUpdate2 ⟨.plain, 1⟩ ⟨.plain, 0⟩)).bind fun _ t => memWrite .plain 0x2FFA01 5 t) = true
      ∧ finishes ((memWrite .plain 0x2FFA00 5 (w0.sequenced.indUpdate2 ⟨.plain, 0⟩ ⟨.plain, 1⟩)).bind fun _ t => memWrite .plain 0x2FFA01 5 t) = true := by decide

theorem witness_ParallelInteger_and_ParallelFloat :
    finishes ((memRead .plain (w0.sequenced.indAddr ⟨.plain, 0⟩ implied) (w0.sequenced.indUpdate2 ⟨.plain, 1⟩ ⟨.plain, 0⟩)).bind
        fun _ t => memWrite .plain (w0.sequenced.indAddr ⟨.plain, 1⟩ implied) (w0.sequenced.get (.r 3)) t) = true := by decide

theorem witness_MultiplyAddPairs :
    finishes (w0.sequenced.fetchInd2 ⟨.indexed .disp .postAddCirc, 0⟩ ⟨.indexed .disp .postAddCirc, 1⟩) = true := by decide

theorem witness_InterruptEntry :
    region w0.pins.romen ((example665.ivtp &&& 0xFFFFFE00) + (BitVec.ofNat 9 1).setWidth 32) = .ram
      ∧ region w0.pins.romen ((example665.ivtp &&& 0xFFFFFE00) + (BitVec.ofNat 9 0x2B).setWidth 32) = .ram
      ∧ region w0.pins.romen (example665.sp + 1) = .ram ∧ example665.iif.getLsbD 1 = false ∧ example665.iif.getLsbD 13 = false
      ∧ { example665 with iif := 0x2222 }.iif.getLsbD 1 = true ∧ { example665 with iif := 0x2222 }.iif.getLsbD 13 = true := by decide

/-- A computation waits. -/
def stalls {α : Type} (x : Res α) : Bool := match x with | .wait _ => true | _ => false

/-- The state of a step that `Obligations.InterruptEntry` speaks of. -/
def looked (s : State) (rest : List Input) : State := ({ s.sample with inputs := rest } : State).forward

/-- `example665` with its vector table on a global bus that is not ready. -/
def unready665 : State := { example665 with ivtp := 0x80000000, pins := { example665.pins with ready0 := false } }

theorem witness_InterruptEntry_step :
    example665.inputs = [] ∧ example665.entering = none ∧ (looked example665 []).taken = some 2 ∧ finishes ((looked example665 []).interrupt 2) = true
      ∧ (looked unready665 []).taken = some 2 ∧ stalls ((looked unready665 []).interrupt 2) = true
      ∧ (looked { example665 with inputs := [.cpu, .h1] } [.h1]).taken = some 2
      ∧ finishes ((looked { example665 with entering := some 2 } []).serve 2) = true
      ∧ stalls ((looked { unready665 with entering := some 2 } []).serve 2) = true :=
  ⟨rfl, rfl, by decide, by decide, by decide, by decide, by decide, by decide, by decide⟩

theorem witness_InterruptPriority_table :
    { example665 with phase := .idle }.entering = none ∧ ({ example665 with phase := .idle, entering := some 2 } : State).entering ≠ none
      ∧ { w0 with phase := .idle }.taken = none
      ∧ ({ w0 with iif := 0xDDDD }.iif.getLsbD 12, { w0 with iif := 0xDDDD }.iif.getLsbD 13) = (true, false)
      ∧ ({ w0 with iif := 0xFFFF }.iif.getLsbD 0, { w0 with iif := 0xFFFF }.iif.getLsbD 1) = (true, true)
      ∧ { w0 with iif := 0xEEEE }.iif.getLsbD 0 = false := by decide

theorem witness_InterruptPriority :
    example665.phase = .running ∧ example665.taken = some 2 ∧ w0.taken = none ∧ w0.phase = .running ∧ w0.delay = none ∧ w0.waiting = none
      ∧ (w0.repeatMode && w0.repeatSingle) = false ∧ { w0 with iif := 0x10000 }.taken = some 1 ∧ w0.st.getLsbD 13 = false
      ∧ { example665 with phase := .idle }.taken = some 2 ∧ { w0 with phase := .idle2 }.phase = .idle2 ∧ { w0 with phase := .stuck }.phase = .stuck := by decide

theorem witness_ReturnUndoesEntry :
    Memory.wf example665.mem = true ∧ example665.delay = none ∧ example665.repeatMode = false ∧ finishes (example665.interrupt 2) = true
      ∧ region w0.pins.romen ((example665.ivtp &&& 0xFFFFFE00) + (BitVec.ofNat 9 2).setWidth 32) = .ram
      ∧ region w0.pins.romen (example665.sp + 1) = .ram := by decide

theorem witness_Commutator :
    strobe0 w0 0x00300000 = true ∧ strobe0 w0 0x00300001 = true ∧ w0.dev.owner = .free ∧ { w0.dev with owner := .mine }.owner ≠ .other ∧ { w0.dev with owner := .other }.owner = .other := by decide

theorem witness_PortFifos :
    w0.dev.busGrant = false ∧ (w0.dmaHeld.any fun h => h.why == .fifo) = false
      ∧ (∃ d : DmaOp, (({ w0 with dmaHeld := some ⟨0, d, 0, .fifo⟩ } : State).dmaHeld.any fun h => h.why == .fifo) = true)
      ∧ (w0.dev.ports[(0 : Fin 6)]).inFifo = [] ∧ (w0.dev.ports[(0 : Fin 6)]).outFifo.length < 8
      ∧ (∃ p : Port, p.inFifo = [5] ∧ p.outFifo.length = 8) ∧ (w0.dev.ports[(3 : Fin 6)]).input = true
      ∧ (w0.dev.ports[(3 : Fin 6)]).ich = false ∧ (w0.dev.ports[(3 : Fin 6)]).inFifo.length < 8 := by
  refine ⟨by decide, by decide, ⟨.load false, by decide⟩, by decide, by decide, ⟨{ w0.dev.ports[(0 : Fin 6)] with inFifo := [5], outFifo := [1, 2, 3, 4, 5, 6, 7, 8] }, rfl, rfl⟩,
    by decide, by decide, by decide⟩

/-- The invariant is met by the state after reset, and a step from there goes on. -/
theorem witness_StepKeepsInvariant : State.reset.Inv ∧ goesOn (step State.reset) = true := by
  unfold State.Inv Devices.Sound Devices.queued
  and_intros <;> first | exact Nat.zero_le _ | decide

/-- Exponents at both ends and outside: 2^128, −2^127, the smallest, and one below it; a mantissa of −2.0. -/
theorem witness_FloatFinish :
    ((2 : Rat) ^ ((128 : Int) - 159 + 31) ≤ 1 ∧ (1 : Rat) < 2 ^ ((128 : Int) - 159 + 32))
      ∧ ((2 : Rat) ^ ((127 : Int) - 158 + 31) ≤ 1 ∧ (1 : Rat) < 2 ^ ((127 : Int) - 158 + 32))
      ∧ ((2 : Rat) ^ ((-127 : Int) - -96 + 31) ≤ 1 ∧ (1 : Rat) < 2 ^ ((-127 : Int) - -96 + 32))
      ∧ ((2 : Rat) ^ ((-128 : Int) - -97 + 31) ≤ 1 ∧ (1 : Rat) < 2 ^ ((-128 : Int) - -97 + 32))
      ∧ (-((2 : Rat) ^ ((0 : Int) - 32 + 32)) ≤ -1 ∧ (-1 : Rat) < -((2 : Rat) ^ ((0 : Int) - 32 + 31))) := by
  norm_num

end Sys2Proof.Tests
end

section
/-! PROOFS. What an instruction changes, in one statement over all instructions (`exec_effect`): registers, status bits,
memory words (`State.Changes`) and the rest of the state. The frames O14 and O16 and the CPU's share of O7 are read off
from it. -/

namespace Sys2Proof.Machine

/-! ### The parts of the state that no list of registers speaks of -/

/-- The parts of the state, beside registers and memory, that some instruction changes. -/
inductive Subsystem where | tables | phase | locks | pulse

/-- The subsystems an instruction changes: the vector tables by LDPE, the phase by the waiting instructions and SWI, the lock
signals by the interlocked ones, IACK# by IACK. -/
def subsystems : Instr → List Subsystem
  | .ldpe _ _ => [.tables]
  | .idle | .idle2 | .swi => [.phase]
  | .ldfi _ _ | .ldii _ _ | .sigi _ _ | .stfi _ _ | .stii _ _ => [.locks]
  | .iack _ => [.pulse]
  | _ => []

/-- Two states agree in a subsystem. -/
def State.Agrees (s t : State) : Subsystem → Prop
  | .tables => t.ivtp = s.ivtp ∧ t.tvtp = s.tvtp
  | .phase => t.phase = s.phase
  | .locks => t.lockGlobal = s.lockGlobal ∧ t.lockLocal = s.lockLocal
  | .pulse => t.iack = s.iack

theorem State.Agrees.refl (s : State) (p : Subsystem) : s.Agrees s p := by cases p <;> simp [State.Agrees]

theorem State.Agrees.trans {s t u : State} {p : Subsystem} (h : s.Agrees t p) (g : t.Agrees u p) : s.Agrees u p := by
  cases p with
  | tables => exact ⟨g.1.trans h.1, g.2.trans h.2⟩
  | locks => exact ⟨g.1.trans h.1, g.2.trans h.2⟩
  | phase | pulse => exact Eq.trans g h

/-- What no meaning of an instruction changes: the environment, and what the controllers remember of it. -/
def State.surroundings (s : State) :=
  (s.pins, s.board, s.romImage, s.inputs, s.entering, s.dmaHeld, s.busy, s.nmiLast, s.iiofLast, s.levelAck, s.levelRaise,
    s.ir)

/-- The requests a write of IIF leaves behind. -/
def State.requests (s : State) := (s.ackPending, s.raisePending, s.claimed)

/-- From `s` to `t` at most the registers in `l`, the status bits in `bits`, the memory words in `as` and the subsystems in
`ps` have changed; a write of IIF may leave requests behind, a write of ST clear the cache. -/
structure State.Effect (s t : State) (l : List Reg) (bits : List Nat) (as : List Word) (ps : List Subsystem) : Prop
    extends s.Changes t l bits as where
  fixed : t.surroundings = s.surroundings
  asked : Reg.iif ∉ l → t.requests = s.requests
  others : ∀ p, p ∉ ps → s.Agrees t p

theorem State.Effect.refl (s : State) : s.Effect s [] [] [] [] :=
  ⟨State.Changes.refl s, rfl, fun _ => rfl, fun p _ => State.Agrees.refl s p⟩

theorem State.Effect.trans {s t u : State} {l l' b b' as bs ps qs} (h : s.Effect t l b as ps) (g : t.Effect u l' b' bs qs) :
    s.Effect u (l ++ l') (b ++ b') (as ++ bs) (ps ++ qs) := by
  refine ⟨h.toChanges.trans g.toChanges, g.fixed.trans h.fixed, fun hl => ?_, fun p hp => ?_⟩
  · rw [List.mem_append, not_or] at hl
    exact (g.asked hl.2).trans (h.asked hl.1)
  · rw [List.mem_append, not_or] at hp
    exact (h.others p hp.1).trans (g.others p hp.2)

/-- Larger lists claim less. -/
theorem State.Effect.mono {s t : State} {l l' b b' as bs ps qs} (h : s.Effect t l b as ps) (hl : l ⊆ l') (hb : b ⊆ b')
    (ha : as ⊆ bs) (hp : ps ⊆ qs) : s.Effect t l' b' bs qs :=
  ⟨h.toChanges.mono hl hb ha, h.fixed, fun x => h.asked fun y => x (hl y), fun p x => h.others p fun y => x (hp y)⟩

/-- What changes nothing has any effect. -/
theorem State.Effect.weaken {s t : State} (h : s.Effect t [] [] [] []) (l b as ps) : s.Effect t l b as ps :=
  h.mono (List.nil_subset _) (List.nil_subset _) (List.nil_subset _) (List.nil_subset _)

/-- An update that leaves all the rest of the state alone. -/
theorem State.Changes.effect {s t : State} {l b as} (h : s.Changes t l b as) (hf : t.surroundings = s.surroundings)
    (hr : t.requests = s.requests) (ho : ∀ p, s.Agrees t p) : s.Effect t l b as [] :=
  ⟨h, hf, fun _ => hr, fun p _ => ho p⟩

/-! ### The shared operations -/

theorem State.Accesses.effect {s t : State} {l as} (h : s.Accesses t l as) : s.Effect t l [] as [] := by
  refine h.changes.effect ?_ ?_ ?_ <;> obtain ⟨ar, d, m, n, g, b, o, rfl, -⟩ := h
  · rfl
  · rfl
  · exact fun p => by cases p <;> simp [State.Agrees]

theorem State.jump_effect (s : State) (a : Word) : s.Effect (s.jump a) [] [] [] [] :=
  (s.jump_changes a).effect rfl rfl fun p => by cases p <;> simp [State.Agrees]

theorem State.delayed_effect (s : State) (a : Word) (n : Bool) (k : DelayKind) : s.Effect (s.delayed a n k) [] [] [] [] :=
  (s.delayed_changes a n k).effect rfl rfl fun p => by cases p <;> simp [State.Agrees]

theorem State.setLock_effect (s : State) (a : Word) (b : Bool) : s.Effect (s.setLock a b) [] [] [] [.locks] := by
  refine ⟨s.setLock_changes a b, by simp [State.surroundings], fun _ => by simp [State.requests], fun p hp => ?_⟩
  cases p with
  | locks => exact absurd List.mem_cons_self hp
  | tables | phase | pulse => simp [State.Agrees]

theorem State.iackFall_effect (s : State) (a : Word) : s.Effect (s.iackFall a) [] [] [] [.pulse] := by
  refine ⟨s.iackFall_changes a, by simp [State.surroundings], fun _ => by simp [State.requests], fun p hp => ?_⟩
  cases p with
  | pulse => exact absurd List.mem_cons_self hp
  | tables | phase | locks => simp [State.Agrees]

theorem State.iackRise_effect (s : State) (a : Word) : s.Effect (s.iackRise a) [] [] [] [.pulse] := by
  refine ⟨s.iackRise_changes a, by simp [State.surroundings], fun _ => by simp [State.requests], fun p hp => ?_⟩
  cases p with
  | pulse => exact absurd List.mem_cons_self hp
  | tables | phase | locks => simp [State.Agrees]

theorem State.setFlags_effect (s : State) (f : Flags) : s.Effect (s.setFlags f) [] f.touched [] [] :=
  (s.setFlags_changes f).effect rfl rfl fun p => by cases p <;> simp [State.Agrees]

theorem State.put_effect (s : State) (d : Reg) (v : Word) : s.Effect (s.put d v) [d] [] [] [] := by
  refine ⟨s.put_changes d v, by simp [State.surroundings], fun hd => ?_, fun p _ => by cases p <;> simp [State.Agrees]⟩
  cases d with
  | iif => exact absurd List.mem_cons_self hd
  | _ => rfl

theorem State.putF_effect (s : State) (n : FReg) (v : Ext) : s.Effect (s.putF n v) [.r n] [] [] [] :=
  (s.putF_changes n v).effect rfl rfl fun p => by cases p <;> simp [State.Agrees]

theorem State.putX_effect (s : State) (x : XReg) (v : Word) : s.Effect (s.putX x v) [] [] [] [.tables] := by
  refine ⟨s.putX_changes x v, by cases x <;> rfl, fun _ => by cases x <;> rfl, fun p hp => ?_⟩
  cases p with
  | tables => exact absurd List.mem_cons_self hp
  | phase | locks | pulse => cases x <;> simp [State.Agrees, State.putX]

theorem State.result_effect (s : State) (d : Reg) (x : Word × Flags) : s.Effect (s.result d x) [d] x.2.touched [] [] := by
  unfold State.result
  split
  · exact ((s.setFlags_effect x.2).trans (State.put_effect _ d x.1)).mono (by simp) (by simp) (by simp) (by simp)
  · exact (s.put_effect d x.1).mono (by simp) (by simp) (by simp) (by simp)

theorem State.resultF_effect (s : State) (n : FReg) (x : Ext × Flags) :
    s.Effect (s.resultF n x) [.r n] x.2.touched [] [] :=
  ((s.setFlags_effect x.2).trans (State.putF_effect _ n x.1)).mono (by simp) (by simp) (by simp) (by simp)

theorem State.saveStatus_effect (s : State) : s.Effect s.saveStatus [] [9, 10, 13, 14] [] [] :=
  s.saveStatus_changes.effect rfl rfl fun p => by cases p <;> simp [State.Agrees]

theorem State.restoreStatus_effect (s : State) : s.Effect s.restoreStatus [] [10, 13] [] [] :=
  s.restoreStatus_changes.effect rfl rfl fun p => by cases p <;> simp [State.Agrees]

theorem State.decrement_effect (s : State) (n : Fin 8) : s.Effect (s.decrement n) [.ar n] [] [] [] := s.put_effect (.ar n) _

theorem State.repeatBlock_effect (s : State) (a b : Word) : s.Effect (s.repeatBlock a b) [.rs, .re] [8] [] [] :=
  (s.repeatBlock_changes a b).effect rfl rfl fun p => by cases p <;> simp [State.Agrees]

/-- The hidden bits of the repeat logic. -/
theorem State.repeatLogic_effect (s : State) (single held : Bool) :
    s.Effect { s with repeatSingle := single, irHeld := held } [] [] [] [] :=
  (State.Changes.of_eq (s := s) (t := { s with repeatSingle := single, irHeld := held }) (fun r => by cases r <;> rfl) rfl
    rfl rfl rfl rfl).effect rfl rfl fun p => by cases p <;> simp [State.Agrees]

/-- A repeat of one instruction: RC, RS, RE and RM. -/
theorem State.repeatNext_effect (s : State) (n a : Word) :
    s.Effect { s with rc := n, rs := a, re := a, st := putBit s.st 8 true, repeatSingle := true, irHeld := false }
      [.rc, .rs, .re] [8] [] [] :=
  (((s.put_effect .rc n).trans (State.repeatBlock_effect _ a a)).trans (State.repeatLogic_effect _ true false)).mono
    (by simp) (by simp) (by simp) (by simp)

theorem State.wait_effect (s : State) (p : Phase) : s.Effect (s.wait p) [] [13] [] [.phase] := by
  refine ⟨s.wait_changes p, rfl, fun _ => rfl, fun p hp => ?_⟩
  cases p with
  | phase => exact absurd List.mem_cons_self hp
  | tables | locks | pulse => simp [State.Agrees]

theorem State.push_effect {s : State} {v : Word} {x : Unit} {t : State} (h : s.push v = .ok x t) :
    s.Effect t [.sp] [] [s.sp + 1] [] :=
  ((s.put_effect .sp (s.sp + 1)).trans (State.push_accesses h).effect).mono (by simp) (by simp) (by simp) (by simp)

theorem State.pop_effect {s : State} {v : Word} {t : State} (h : s.pop = .ok v t) : s.Effect t [.sp] [] [] [] := by
  obtain ⟨u, hu, rfl⟩ := State.pop_accesses h
  exact (hu.effect.trans (u.put_effect .sp (u.sp - 1))).mono (by simp) (by simp) (by simp) (by simp)

theorem State.trap_effect {s : State} {n : BitVec 9} {a : Word} {x : Unit} {t : State} (h : s.trap n a = .ok x t) :
    s.Effect t [.sp] [9, 10, 13, 14] [s.sp + 1] [] := by
  obtain ⟨_, u, hu, h⟩ := Res.bind_eq_ok h
  obtain ⟨v, w, hw, h⟩ := Res.bind_eq_ok h
  cases h
  exact (((s.saveStatus_effect.trans (State.push_effect hu)).trans (memRead_accesses hw).effect).trans
    (w.jump_effect v)).mono (by simp) (by simp) (by simp) (by simp)

theorem State.exceptionReturn_effect {s : State} {v : Word} {t : State} (h : s.exceptionReturn = .ok v t) :
    s.Effect t [.sp] [10, 13] [] [] := by
  obtain ⟨w, u, hu, h⟩ := Res.bind_eq_ok h
  cases h
  exact ((State.pop_effect hu).trans u.restoreStatus_effect).mono (by simp) (by simp) (by simp) (by simp)

/-! ### The shapes of computations -/

/-- What follows a finished operand access. -/
theorem Res.andThen_effect {α : Type} {s u : State} {x : Res α} {f : α → State → State} {l l' b as ps} {a : Unit}
    (h : x.andThen f = .ok a u) (hx : ∀ v t, x = .ok v t → s.Accesses t l as)
    (hf : ∀ v (t : State), t.Effect (f v t) l' b [] ps) : s.Effect u (l' ++ l) b as ps := by
  obtain ⟨v, t, e, rfl⟩ := Res.andThen_eq_ok h
  exact ((hx v t e).effect.trans (hf v t)).mono (by simp) (by simp) (by simp) (by simp)

/-- What follows a finished computation and changes only the sequencing. -/
theorem Res.andThen_flow_effect {α : Type} {s u : State} {x : Res α} {f : α → State → State} {l b as ps} {a : Unit}
    (h : x.andThen f = .ok a u) (hx : ∀ v t, x = .ok v t → s.Effect t l b as ps)
    (hf : ∀ v (t : State), t.Effect (f v t) [] [] [] []) : s.Effect u l b as ps := by
  obtain ⟨v, t, e, rfl⟩ := Res.andThen_eq_ok h
  exact ((hx v t e).trans (hf v t)).mono (by simp) (by simp) (by simp) (by simp)

/-- An integer result computed from accessed operands. -/
theorem Res.result_effect {α : Type} {s u : State} {x : Res α} {d : Reg} {f : α → State → Word × Flags} {l b}
    {a : Unit} (h : (x.andThen fun v t => t.result d (f v t)) = .ok a u) (hx : ∀ v t, x = .ok v t → s.Accesses t l [])
    (hb : ∀ v t, ∀ i ∈ (f v t).2.touched, i ∈ b) : s.Effect u (d :: l) b [] [] :=
  Res.andThen_effect (l' := [d]) h hx fun v t =>
    (State.result_effect t d (f v t)).mono (fun _ y => y) (hb v t) (fun _ y => y) (fun _ y => y)

/-- A floating-point result computed from accessed operands. -/
theorem Res.resultF_effect {α : Type} {s u : State} {x : Res α} {d : FReg} {f : α → State → Ext × Flags} {l b}
    {a : Unit} (h : (x.andThen fun v t => t.resultF d (f v t)) = .ok a u) (hx : ∀ v t, x = .ok v t → s.Accesses t l [])
    (hb : ∀ v t, ∀ i ∈ (f v t).2.touched, i ∈ b) : s.Effect u (.r d :: l) b [] [] :=
  Res.andThen_effect (l' := [.r d]) h hx fun v t =>
    (State.resultF_effect t d (f v t)).mono (fun _ y => y) (hb v t) (fun _ y => y) (fun _ y => y)

/-- Flags alone computed from accessed operands. -/
theorem Res.setFlags_effect {α : Type} {s u : State} {x : Res α} {f : α → State → Flags} {l b} {a : Unit}
    (h : (x.andThen fun v t => t.setFlags (f v t)) = .ok a u) (hx : ∀ v t, x = .ok v t → s.Accesses t l [])
    (hb : ∀ v t, ∀ i ∈ (f v t).touched, i ∈ b) : s.Effect u l b [] [] :=
  Res.andThen_effect (l' := []) h hx fun v t =>
    (State.setFlags_effect t (f v t)).mono (fun _ y => y) (hb v t) (fun _ y => y) (fun _ y => y)

/-- A parallel operation with a store. -/
theorem State.withStore_effect {s u : State} {i j : Ind} {v : Word} {f : Word → State → State} {l b} {a : Unit}
    (h : s.withStore i j v f = .ok a u) (hf : ∀ w (t : State), t.Effect (f w t) l b [] []) :
    s.Effect u (l ++ (indModifies j ++ indModifies i)) b [s.indAddr j implied] [] := by
  obtain ⟨w, t, rfl, hx⟩ := State.withStore_accesses h
  exact (hx.effect.trans (hf w t)).mono (by simp) (by simp) (by simp) (by simp)

/-- An integer multiply-add pair: two registers and the flags of both results. -/
theorem State.mulAddI_effect {s u : State} {o : MulAdd} {add : Word → Word → Word × Flags} {a : Unit}
    (h : s.mulAddI o add = .ok a u)
    (hb : ∀ o x y w z, ∀ i ∈ (pairFlags (mulInt o x y).2 (add w z).2).touched, i ∈ [1, 2, 3, 4, 5]) :
    s.Effect u ([floatReg (productReg o), floatReg (sumReg o)] ++ (indModifies o.src3 ++ indModifies o.src4))
      [1, 2, 3, 4, 5] [] [] :=
  Res.andThen_effect h (fun _ _ => State.fetchInd2_accesses) fun _ t =>
    (((t.setFlags_effect _).trans (State.put_effect _ _ _)).trans (State.put_effect _ _ _)).mono (by simp [floatReg])
      (by rw [List.append_nil, List.append_nil]; exact hb _ _ _ _ _) (by simp) (by simp)

/-- A floating-point multiply-add pair. -/
theorem State.mulAddF_effect {s u : State} {o : MulAdd} {add : Ext → Ext → Ext × Flags} {a : Unit}
    (h : s.mulAddF o add = .ok a u) :
    s.Effect u ([floatReg (productReg o), floatReg (sumReg o)] ++ (indModifies o.src3 ++ indModifies o.src4))
      [1, 2, 3, 4, 5, 6] [] [] :=
  Res.andThen_effect h (fun _ _ => State.fetchInd2_accesses) fun _ t =>
    (((t.setFlags_effect _).trans (State.putF_effect _ _ _)).trans (State.putF_effect _ _ _)).mono (by simp [floatReg])
      (by rw [List.append_nil, List.append_nil]; exact pairFlags_touched _ _) (by simp) (by simp)

/-! ### Sequencing and the outcome -/

/-- What the repeat mode may change besides: RC counts down, and its end clears RM. -/
def State.repeatRegs (s : State) : List Reg := if s.repeatMode then [.rc] else []
def State.repeatBits (s : State) : List Nat := if s.repeatMode then [8] else []

theorem State.sequenced_effect (s : State) : s.Effect s.sequenced s.repeatRegs s.repeatBits [] [] :=
  s.sequenced_changes.effect (by simp [State.surroundings]) (by simp [State.requests]) fun p => by
    cases p <;> simp [State.Agrees]

/-- An access that waits leaves only its mark. -/
theorem State.waiting_effect (s : State) (w : Option Wait) : s.Effect { s with waiting := w } [] [] [] [] :=
  (State.Changes.of_eq (s := s) (t := { s with waiting := w }) (fun r => by cases r <;> rfl) rfl rfl rfl rfl rfl).effect
    rfl rfl fun p => by cases p <;> simp [State.Agrees]

/-- The core sticks. -/
theorem State.stuck_effect (s : State) : s.Effect { s with phase := .stuck } [] [] [] [.phase] := by
  refine ⟨State.Changes.of_eq (fun r => by cases r <;> rfl) rfl rfl rfl rfl rfl, rfl, fun _ => rfl, fun p hp => ?_⟩
  cases p with
  | phase => exact absurd List.mem_cons_self hp
  | tables | locks | pulse => simp [State.Agrees]

section
variable {s u : State}

/-- A meaning that answers a next state has the effect of its computation and of sequencing, or it waits. -/
theorem State.run_effect {f : State → Res Unit} {l b as ps} (h : s.run f = .next u)
    (hf : ∀ a, f s.sequenced = .ok a u → s.sequenced.Effect u l b as ps) :
    s.Effect u (l ++ s.repeatRegs) (b ++ s.repeatBits) as ps := by
  obtain ⟨a, e⟩ | ⟨w, -, rfl⟩ := State.run_eq_next h
  · exact (s.sequenced_effect.trans (hf a e)).mono (by simp) (by simp) (by simp) (by simp)
  · exact (s.waiting_effect (some w)).weaken _ _ _ _

/-- The same for a meaning that makes no access. -/
theorem State.run_ok_effect {f : State → State} {l b as ps} (h : (s.run fun t => .ok () (f t)) = .next u)
    (hf : s.sequenced.Effect (f s.sequenced) l b as ps) : s.Effect u (l ++ s.repeatRegs) (b ++ s.repeatBits) as ps :=
  State.run_effect h fun _ e => by cases e; exact hf

/-- The same for a meaning that makes its accesses only where a condition holds. -/
theorem State.run_cond_effect {c : Cond} {f : State → Res Unit} {g : State → State} {l b as ps}
    (h : (s.run fun t => if t.cond c then f t else .ok () (g t)) = .next u)
    (hf : s.sequenced.cond c = true → ∀ a, f s.sequenced = .ok a u → s.sequenced.Effect u l b as ps)
    (hg : s.sequenced.Effect (g s.sequenced) [] [] [] []) : s.Effect u (l ++ s.repeatRegs) (b ++ s.repeatBits) as ps := by
  refine State.run_effect h fun a e => ?_
  split at e
  · exact hf ‹_› a e
  · cases e
    exact hg.weaken _ _ _ _

/-- The same for a meaning that begins with a signal. -/
theorem State.Effect.run {t : State} {f : State → Res Unit} {l b ps} (g : s.Effect t [] [] [] ps) (hst : t.st = s.st)
    (h : t.run f = .next u) (hf : ∀ a, f t.sequenced = .ok a u → t.sequenced.Effect u l b [] ps) :
    s.Effect u (l ++ s.repeatRegs) (b ++ s.repeatBits) [] ps := by
  have e : t.repeatMode = s.repeatMode := congrArg (fun v : Word => v.getLsbD 8) hst
  refine (g.trans (State.run_effect h hf)).mono ?_ ?_ (by simp) (by simp)
  · simp [State.repeatRegs, e]
  · simp [State.repeatBits, e]

/-! ### The shapes of instructions -/

variable {ρ α : Type} {reg : State → ρ → α} {word : State → Word → α} {imm : State → BitVec 16 → α}
  {imm3 : State → BitVec 8 → α} {o : Src ρ} {p : Tri ρ} {d : Reg} {n : FReg} {b : List Nat}

/-- An integer result of a general source operand. -/
theorem State.run_source_result {f : State → α → State → Word × Flags}
    (h : (s.run fun t => (t.source (reg t) (word t) (imm t) o).andThen fun x v => v.result d (f t x v)) = .next u)
    (hb : ∀ t x v, ∀ i ∈ (f t x v).2.touched, i ∈ b) :
    s.Effect u (d :: srcModifies o ++ s.repeatRegs) (b ++ s.repeatBits) [] [] :=
  State.run_effect h fun _ e => Res.result_effect e (fun _ _ => State.source_accesses) (hb _)

/-- A floating-point result of a general source operand. -/
theorem State.run_source_resultF {f : State → α → State → Ext × Flags}
    (h : (s.run fun t => (t.source (reg t) (word t) (imm t) o).andThen fun x v => v.resultF n (f t x v)) = .next u)
    (hb : ∀ t x v, ∀ i ∈ (f t x v).2.touched, i ∈ b) :
    s.Effect u (.r n :: srcModifies o ++ s.repeatRegs) (b ++ s.repeatBits) [] [] :=
  State.run_effect h fun _ e => Res.resultF_effect e (fun _ _ => State.source_accesses) (hb _)

/-- The flags of a general source operand. -/
theorem State.run_source_flags {f : State → α → State → Flags}
    (h : (s.run fun t => (t.source (reg t) (word t) (imm t) o).andThen fun x v => v.setFlags (f t x v)) = .next u)
    (hb : ∀ t x v, ∀ i ∈ (f t x v).touched, i ∈ b) :
    s.Effect u (srcModifies o ++ s.repeatRegs) (b ++ s.repeatBits) [] [] :=
  State.run_effect h fun _ e => Res.setFlags_effect e (fun _ _ => State.source_accesses) (hb _)

/-- A general source operand loaded without flags. -/
theorem State.run_source_load {f : State → α → State → State} {l : List Reg} {b : List Nat}
    (h : (s.run fun t => (t.source (reg t) (word t) (imm t) o).andThen fun x v => f t x v) = .next u)
    (hf : ∀ t x (v : State), v.Effect (f t x v) l b [] []) :
    s.Effect u (l ++ srcModifies o ++ s.repeatRegs) (b ++ s.repeatBits) [] [] :=
  State.run_effect h fun _ e => Res.andThen_effect e (fun _ _ => State.source_accesses) (hf _)

/-- An integer result of an operand pair. -/
theorem State.run_pair_result {f : State → α × α → State → Word × Flags}
    (h : (s.run fun t => (t.operands3 (reg t) (word t) (imm3 t) p).andThen fun x v => v.result d (f t x v)) = .next u)
    (hb : ∀ t x v, ∀ i ∈ (f t x v).2.touched, i ∈ b) :
    s.Effect u (d :: triModifies p ++ s.repeatRegs) (b ++ s.repeatBits) [] [] :=
  State.run_effect h fun _ e => Res.result_effect e (fun _ _ => State.operands3_accesses) (hb _)

/-- A floating-point result of an operand pair. -/
theorem State.run_pair_resultF {f : State → α × α → State → Ext × Flags}
    (h : (s.run fun t => (t.operands3 (reg t) (word t) (imm3 t) p).andThen fun x v => v.resultF n (f t x v)) = .next u)
    (hb : ∀ t x v, ∀ i ∈ (f t x v).2.touched, i ∈ b) :
    s.Effect u (.r n :: triModifies p ++ s.repeatRegs) (b ++ s.repeatBits) [] [] :=
  State.run_effect h fun _ e => Res.resultF_effect e (fun _ _ => State.operands3_accesses) (hb _)

/-- The flags of an operand pair. -/
theorem State.run_pair_flags {f : State → α × α → State → Flags}
    (h : (s.run fun t => (t.operands3 (reg t) (word t) (imm3 t) p).andThen fun x v => v.setFlags (f t x v)) = .next u)
    (hb : ∀ t x v, ∀ i ∈ (f t x v).touched, i ∈ b) :
    s.Effect u (triModifies p ++ s.repeatRegs) (b ++ s.repeatBits) [] [] :=
  State.run_effect h fun _ e => Res.setFlags_effect e (fun _ _ => State.operands3_accesses) (hb _)

variable {i j : Ind} {stored : State → Word}

/-- An integer operation with a store. -/
theorem State.run_store_result {f : State → Word → State → Word × Flags}
    (h : (s.run fun t => t.withStore i j (stored t) fun w v => v.result d (f t w v)) = .next u)
    (hb : ∀ t w v, ∀ i ∈ (f t w v).2.touched, i ∈ b) :
    s.Effect u (d :: (indModifies j ++ indModifies i) ++ s.repeatRegs) (b ++ s.repeatBits)
      [s.sequenced.indAddr j implied] [] :=
  State.run_effect h fun _ e => State.withStore_effect (l := [d]) e fun w t =>
    (t.result_effect d _).mono (fun _ y => y) (hb _ w t) (fun _ y => y) (fun _ y => y)

/-- A floating-point operation with a store. -/
theorem State.run_store_resultF {f : State → Word → State → Ext × Flags}
    (h : (s.run fun t => t.withStore i j (stored t) fun w v => v.resultF n (f t w v)) = .next u)
    (hb : ∀ t w v, ∀ i ∈ (f t w v).2.touched, i ∈ b) :
    s.Effect u (.r n :: (indModifies j ++ indModifies i) ++ s.repeatRegs) (b ++ s.repeatBits)
      [s.sequenced.indAddr j implied] [] :=
  State.run_effect h fun _ e => State.withStore_effect (l := [.r n]) e fun w t =>
    (t.resultF_effect n _).mono (fun _ y => y) (hb _ w t) (fun _ y => y) (fun _ y => y)

end

/-! ### Every instruction -/

/-- What an instruction changes is among its registers, status bits, stored words and subsystems, and what the repeat mode
changes. One case for each shape of meaning. -/
theorem exec_effect {i : Instr} {s u : State} (h : exec i s = .next u) :
    s.Effect u (modifies i ++ s.repeatRegs) (statusBits i ++ s.repeatBits) (storeAddresses s.sequenced i)
      (subsystems i) := by
  unfold exec at h
  cases i with
  -- Integer results of a general source operand
  | addc d o | addi d o => exact State.run_source_result h fun _ _ _ => addInt_touched _ _ _ _
  | subb d o | subi d o | subrb d o | subri d o | negb d o | negi d o =>
    exact State.run_source_result h fun _ _ _ => subInt_touched _ _ _ _
  | absi d o => exact State.run_source_result h fun _ _ _ => absInt_touched _ _
  | mpyi d o => exact State.run_source_result h fun _ _ _ => mulInt_touched _ _ _
  | mpyshi d o => exact State.run_source_result h fun _ _ _ => mulHighSigned_touched _ _
  | mpyuhi d o => exact State.run_source_result h fun _ _ _ => mulHighUnsigned_touched _ _
  | ash d o => exact State.run_source_result h fun _ _ _ => ashInt_touched _ _
  | lsh d o => exact State.run_source_result h fun _ _ _ => lshInt_touched _ _
  | ldi d o | and d o | andn d o | or d o | xor d o | not d o | lb b d o | lh b d o | lwl b d o | lwr b d o | mb b d o
  | mh b d o => exact State.run_source_result h fun _ _ _ => plainFlags_touched _
  | lbu b d o | lhu b d o => exact State.run_source_result h fun _ _ _ => unsignedFlags_touched _
  | fix d o => exact State.run_source_result h fun _ _ _ => fixInt_touched _
  -- Loads without flags
  | lda d o =>
    change execLda d o s = .next u at h
    unfold execLda at h
    split at h
    · cases h
    · exact State.run_source_load (l := [d]) h fun _ x t => t.put_effect d x
  | subc d o => exact State.run_source_load (l := [d]) h fun _ _ t => t.put_effect d _
  | ldiCond c d o =>
    refine State.run_source_load (l := [d]) h fun _ x t => ?_
    split
    · exact t.put_effect d x
    · exact (State.Effect.refl t).weaken _ _ _ _
  | lde d o | ldm d o => exact State.run_source_load (l := [.r d]) h fun _ _ t => t.putF_effect d _
  | ldfCond c d o =>
    refine State.run_source_load (l := [.r d]) h fun _ x t => ?_
    split
    · exact t.putF_effect d x
    · exact (State.Effect.refl t).weaken _ _ _ _
  | ldep d x | ldhi d x => exact State.run_ok_effect h (State.put_effect _ d _)
  | ldpk v => exact State.run_ok_effect h (State.put_effect _ .dp _)
  | ldpe x r => exact State.run_ok_effect h (State.putX_effect _ x _)
  -- Integer results without a source operand
  | ldp v =>
    exact State.run_effect h fun _ e => Res.result_effect (l := []) e
      (fun _ t e => by cases e; exact State.Accesses.refl _) fun _ _ => plainFlags_touched _
  | rol d | rolc d =>
    exact State.run_ok_effect h ((State.result_effect _ d _).mono (fun _ y => y) (rotateLeft_touched _ _)
      (fun _ y => y) (fun _ y => y))
  | ror d | rorc d =>
    exact State.run_ok_effect h ((State.result_effect _ d _).mono (fun _ y => y) (rotateRight_touched _ _)
      (fun _ y => y) (fun _ y => y))
  -- Floating-point results of a general source operand
  | addf d o | subf d o | subrf d o | mpyf d o | negf d o =>
    exact State.run_source_resultF h fun _ _ _ => floatFinish_touched _
  | absf d o => exact State.run_source_resultF h fun _ _ _ => floatAbs_touched _
  | float d o => exact State.run_source_resultF h fun _ _ _ => floatInt_touched _
  | norm d o => exact State.run_source_resultF h fun _ _ _ => normFloat_touched _
  | rnd d o => exact State.run_source_resultF h fun _ _ _ => roundFloat_touched _
  | rcpf d o => exact State.run_source_resultF h fun _ _ _ => reciprocal_touched _
  | rsqrf d o => exact State.run_source_resultF h fun _ _ _ => rootReciprocal_touched _ _
  | toieee d o => exact State.run_source_resultF h fun _ _ _ => toIeee_touched _
  | ldf d o => exact State.run_source_resultF h fun _ _ _ => copyFlags_touched _
  | frieee d m =>
    exact State.run_effect h fun _ e =>
      Res.resultF_effect e (fun _ _ => State.fetch_accesses) fun _ _ => fromIeee_touched _
  -- Compares and tests
  | cmpi d o => exact State.run_source_flags h fun _ _ _ => subInt_touched _ _ _ _
  | tstb d o => exact State.run_source_flags h fun _ _ _ => plainFlags_touched _
  | cmpf d o => exact State.run_source_flags h fun _ _ _ => floatFinish_touched _
  | cmpi3 o => exact State.run_pair_flags h fun _ _ _ => subInt_touched _ _ _ _
  | tstb3 o => exact State.run_pair_flags h fun _ _ _ => plainFlags_touched _
  | cmpf3 o => exact State.run_pair_flags h fun _ _ _ => floatFinish_touched _
  -- Three operands
  | addc3 d o | addi3 d o => exact State.run_pair_result h fun _ _ _ => addInt_touched _ _ _ _
  | subb3 d o | subi3 d o => exact State.run_pair_result h fun _ _ _ => subInt_touched _ _ _ _
  | and3 d o | andn3 d o | or3 d o | xor3 d o => exact State.run_pair_result h fun _ _ _ => plainFlags_touched _
  | ash3 d o => exact State.run_pair_result h fun _ _ _ => ashInt_touched _ _
  | lsh3 d o => exact State.run_pair_result h fun _ _ _ => lshInt_touched _ _
  | mpyi3 d o => exact State.run_pair_result h fun _ _ _ => mulInt_touched _ _ _
  | mpyshi3 d o => exact State.run_pair_result h fun _ _ _ => mulHighSigned_touched _ _
  | mpyuhi3 d o => exact State.run_pair_result h fun _ _ _ => mulHighUnsigned_touched _ _
  | addf3 d o | subf3 d o | mpyf3 d o => exact State.run_pair_resultF h fun _ _ _ => floatFinish_touched _
  -- Stores and the stack
  | stf r m | sti r m | stik r m => exact State.run_effect h fun _ e => (State.store_accesses e).effect
  | push r | pushf r => exact State.run_effect h fun _ e => State.push_effect e
  | pop d =>
    refine State.run_effect h fun _ e => ?_
    obtain ⟨v, t, ht, rfl⟩ := Res.andThen_eq_ok e
    exact ((State.pop_effect ht).trans (t.result_effect d _)).mono (by simp [modifies]) (plainFlags_touched v) (by simp)
      (by simp)
  | popf d =>
    refine State.run_effect h fun _ e => ?_
    obtain ⟨v, t, ht, rfl⟩ := Res.andThen_eq_ok e
    exact ((State.pop_effect ht).trans (t.resultF_effect d _)).mono (by simp [modifies, floatReg])
      (copyFlags_touched (singleToExtended v)) (by simp) (by simp)
  -- Interlocked accesses and IACK
  | ldfi d m =>
    exact (s.setLock_effect _ false).run (by simp) h fun _ e =>
      (Res.resultF_effect e (fun _ _ => State.fetch_accesses) fun _ _ => copyFlags_touched _).mono (fun _ y => y)
        (fun _ y => y) (fun _ y => y) (by simp)
  | ldii d m =>
    exact (s.setLock_effect _ false).run (by simp) h fun _ e =>
      (Res.result_effect e (fun _ _ => State.fetch_accesses) fun _ _ => plainFlags_touched _).mono (fun _ y => y)
        (fun _ y => y) (fun _ y => y) (by simp)
  | sigi d m =>
    exact (s.setLock_effect _ false).run (by simp) h fun _ e =>
      Res.andThen_effect (l' := [d]) e (fun _ _ => State.fetch_accesses) fun v t =>
        ((t.setLock_effect _ true).trans (State.result_effect _ d (plainFlags v))).mono (by simp) (plainFlags_touched v)
          (by simp) (by simp)
  | stfi r m | stii r m =>
    exact State.run_effect h fun _ e =>
      Res.andThen_effect (l' := []) e (fun _ _ => State.store_accesses) fun _ t => t.setLock_effect _ true
  | iack m =>
    exact (s.iackFall_effect _).run (by simp) h fun _ e =>
      Res.andThen_effect (l' := []) e (fun _ _ => State.fetch_accesses) fun _ t => t.iackRise_effect _
  -- Branches
  | bCond c a =>
    refine State.run_ok_effect h ?_
    split
    · exact State.jump_effect _ _
    · exact State.Effect.refl _
  | bCondAf c a | bCondAt c a =>
    refine State.run_ok_effect h ?_
    split <;> exact State.delayed_effect _ _ _ _
  | bCondD c a => exact State.run_ok_effect h (State.delayed_effect _ _ _ _)
  | br a => exact State.run_ok_effect h (State.jump_effect _ _)
  | brd a => exact State.run_ok_effect h (State.delayed_effect _ _ _ _)
  | dbCond n c a =>
    refine State.run_ok_effect h ?_
    split
    · exact (State.decrement_effect _ n).trans (State.jump_effect _ _)
    · exact State.decrement_effect _ n
  | dbCondD n c a => exact State.run_ok_effect h ((State.decrement_effect _ n).trans (State.delayed_effect _ _ _ _))
  | laj a => exact State.run_ok_effect h ((State.put_effect _ (.r 11) _).trans (State.delayed_effect _ _ _ _))
  | lajCond c a =>
    refine State.run_ok_effect h ?_
    split
    · exact (State.put_effect _ (.r 11) _).trans (State.delayed_effect _ _ _ _)
    · exact (State.delayed_effect _ _ _ _).weaken _ _ _ _
  -- Calls, traps and returns
  | call a =>
    exact State.run_effect h fun _ e =>
      Res.andThen_flow_effect e (fun _ _ => State.push_effect) fun _ t => t.jump_effect _
  | callCond c a =>
    refine State.run_cond_effect h (fun hc _ e => ?_) (State.Effect.refl _)
    rw [storeAddresses, if_pos hc]
    exact Res.andThen_flow_effect e (fun _ _ => State.push_effect) fun _ t => t.jump_effect _
  | trapCond c n =>
    refine State.run_cond_effect h (fun hc _ e => ?_) (State.Effect.refl _)
    rw [storeAddresses, if_pos hc]
    exact State.trap_effect e
  | latCond c n =>
    refine State.run_cond_effect h (fun _ _ e => ?_) (State.delayed_effect _ _ _ _)
    exact Res.andThen_flow_effect e (fun _ _ hr => ((State.saveStatus_effect _).trans ((State.put_effect _ (.r 11) _).trans
      (memRead_accesses hr).effect))) fun _ t => t.delayed_effect _ _ _
  | retiCond c =>
    exact State.run_cond_effect h (fun _ _ e =>
      Res.andThen_flow_effect e (fun _ _ => State.exceptionReturn_effect) fun _ t => t.jump_effect _) (State.Effect.refl _)
  | retiCondD c =>
    exact State.run_cond_effect h (fun _ _ e =>
      Res.andThen_flow_effect e (fun _ _ => State.exceptionReturn_effect) fun _ t => t.delayed_effect _ _ _)
      (State.delayed_effect _ _ _ _)
  | retsCond c =>
    exact State.run_cond_effect h (fun _ _ e =>
      Res.andThen_flow_effect e (fun _ _ => State.pop_effect) fun _ t => t.jump_effect _) (State.Effect.refl _)
  -- Waiting and repeating
  | nop o =>
    refine State.run_effect h fun _ e => ?_
    cases o with
    | reg r => cases e; exact State.Effect.refl _
    | ind i d => exact Res.andThen_effect (l' := []) e (fun _ _ => State.fetch_accesses) fun _ t => State.Effect.refl t
  | idle => exact State.run_ok_effect h (State.wait_effect _ .idle)
  | idle2 => exact State.run_ok_effect h (State.wait_effect _ .idle2)
  | swi =>
    cases h
    exact s.stuck_effect.mono (List.nil_subset _) (List.nil_subset _) (fun _ y => y) (fun _ y => y)
  | rptb b => exact State.run_ok_effect h (State.repeatBlock_effect _ _ _)
  | rptbd b =>
    exact State.run_ok_effect h ((State.repeatBlock_effect _ _ _).trans (State.delayed_effect _ _ _ _))
  | rpts o => exact State.run_source_load (l := [.rc, .rs, .re]) h fun _ _ t => t.repeatNext_effect _ _
  -- Parallel operations with a store
  | absfStf o => exact State.run_store_resultF h fun _ _ _ => floatAbs_touched _
  | floatStf o => exact State.run_store_resultF h fun _ _ _ => floatInt_touched _
  | frieeeStf o => exact State.run_store_resultF h fun _ _ _ => fromIeee_touched _
  | toieeeStf o => exact State.run_store_resultF h fun _ _ _ => toIeee_touched _
  | negfStf o | addf3Stf o | subf3Stf o | mpyf3Stf o =>
    exact State.run_store_resultF h fun _ _ _ => floatFinish_touched _
  | absiSti o => exact State.run_store_result h fun _ _ _ => absInt_touched _ _
  | fixSti o => exact State.run_store_result h fun _ _ _ => fixInt_touched _
  | addi3Sti o => exact State.run_store_result h fun _ _ _ => addInt_touched _ _ _ _
  | subi3Sti o | negiSti o => exact State.run_store_result h fun _ _ _ => subInt_touched _ _ _ _
  | and3Sti o | or3Sti o | xor3Sti o | notSti o => exact State.run_store_result h fun _ _ _ => plainFlags_touched _
  | ash3Sti o => exact State.run_store_result h fun _ _ _ => ashInt_touched _ _
  | lsh3Sti o => exact State.run_store_result h fun _ _ _ => lshInt_touched _ _
  | mpyi3Sti o => exact State.run_store_result h fun _ _ _ => mulInt_touched _ _ _
  -- Parallel loads, stores and multiply-add pairs
  | ldfStf o => exact State.run_effect h fun _ e => State.withStore_effect e fun _ t => t.putF_effect _ _
  | ldiSti o => exact State.run_effect h fun _ e => State.withStore_effect e fun _ t => t.put_effect _ _
  | ldfLdf o =>
    exact State.run_effect h fun _ e => Res.andThen_effect e (fun _ _ => State.fetchInd2_accesses) fun _ t =>
      (t.putF_effect _ _).trans (State.putF_effect _ _ _)
  | ldiLdi o =>
    exact State.run_effect h fun _ e => Res.andThen_effect e (fun _ _ => State.fetchInd2_accesses) fun _ t =>
      (t.put_effect _ _).trans (State.put_effect _ _ _)
  | stfStf o | stiSti o => exact State.run_effect h fun _ e => (State.storePair_accesses e).effect
  | mpyf3Addf3 o | mpyf3Subf3 o => exact State.run_effect h fun _ e => State.mulAddF_effect e
  | mpyi3Addi3 o | mpyi3Subi3 o =>
    exact State.run_effect h fun _ e => State.mulAddI_effect e fun _ _ _ _ _ => pairFlags_int_touched _ _ _ _ _

end Sys2Proof.Machine
end

section
/-! PROOFS. The frames of the status register and of the special registers (O14, O16). -/

namespace Sys2Proof.Machine

/-- The repeat mode touches RC alone. -/
theorem State.mem_repeatRegs {s : State} {r : Reg} : r ∈ s.repeatRegs ↔ s.repeatMode = true ∧ r = .rc := by
  unfold State.repeatRegs
  split <;> simp [*]

/-- Its end touches RM alone. -/
theorem State.mem_repeatBits {s : State} {b : Nat} : b ∈ s.repeatBits ↔ s.repeatMode = true ∧ b = 8 := by
  unfold State.repeatBits
  split <;> simp [*]

/-- A register other than RC that an instruction does not list is not touched by its sequencing either. -/
theorem not_mem_modifies_repeat {i : Instr} {s : State} {r : Reg} (h : r ∉ modifies i) (hr : r ≠ .rc) :
    r ∉ modifies i ++ s.repeatRegs := by
  simp [State.mem_repeatRegs, h, hr]

theorem tables_not_mem_subsystems {i : Instr} (h : ∀ x r, i ≠ .ldpe x r) : Subsystem.tables ∉ subsystems i := by
  cases i with
  | ldpe x r => exact absurd rfl (h x r)
  | _ => simp [subsystems]

theorem phase_not_mem_subsystems {i : Instr} (h : i ≠ .idle) (h' : i ≠ .idle2) (h'' : i ≠ .swi) :
    Subsystem.phase ∉ subsystems i := by
  cases i with
  | idle => exact absurd rfl h
  | idle2 => exact absurd rfl h'
  | swi => exact absurd rfl h''
  | _ => simp [subsystems]

theorem locks_not_mem_subsystems {i : Instr} (h1 : ∀ d m, i ≠ .ldfi d m) (h2 : ∀ d m, i ≠ .ldii d m)
    (h3 : ∀ d m, i ≠ .sigi d m) (h4 : ∀ d m, i ≠ .stfi d m) (h5 : ∀ d m, i ≠ .stii d m) : Subsystem.locks ∉ subsystems i := by
  cases i with
  | ldfi d m => exact absurd rfl (h1 d m)
  | ldii d m => exact absurd rfl (h2 d m)
  | sigi d m => exact absurd rfl (h3 d m)
  | stfi d m => exact absurd rfl (h4 d m)
  | stii d m => exact absurd rfl (h5 d m)
  | _ => simp [subsystems]

theorem pulse_not_mem_subsystems {i : Instr} (h : ∀ m, i ≠ .iack m) : Subsystem.pulse ∉ subsystems i := by
  cases i with
  | iack m => exact absurd rfl (h m)
  | _ => simp [subsystems]

end Sys2Proof.Machine

open Sys2Proof Sys2Proof.Machine

/-- Settles O14: the status bits in the effect of an instruction. -/
theorem statusFrame : Obligations.StatusFrame := by
  intro i s u b h hst hb h8
  refine (exec_effect h).status (not_mem_modifies_repeat hst (by decide)) b ?_
  rw [List.mem_append, State.mem_repeatBits]
  rintro (hm | ⟨hr, rfl⟩)
  · exact hb hm
  · rw [h8 rfl] at hr
    cases hr

/-- Settles O16: the parts of the state outside the registers, in the effect of an instruction. -/
theorem specialFrame : Obligations.SpecialFrame := by
  intro i s u h
  have e := exec_effect h
  refine ⟨fun hi => e.others .tables (tables_not_mem_subsystems hi), ?_, fun hi => ?_,
    fun h1 h2 h3 => e.others .phase (phase_not_mem_subsystems h1 h2 h3),
    fun hi => e.cache (not_mem_modifies_repeat hi (by decide)),
    fun h1 h2 h3 h4 h5 => e.others .locks (locks_not_mem_subsystems h1 h2 h3 h4 h5),
    fun hi => e.others .pulse (pulse_not_mem_subsystems hi)⟩
  · simpa only [State.surroundings, Prod.mk.injEq] using e.fixed
  · simpa only [State.requests, Prod.mk.injEq] using e.asked (not_mem_modifies_repeat hi (by decide))
end

section
/-! PROOFS. What the other agents do to the devices keeps them sound (part of O7): ports, timers, DMA, and the queues of the
SoC devices. -/

namespace Sys2Proof.Machine

/-! ### Ports (65 R510–R518) -/

theorem Port.receive_bounded {p : Port} (h : p.bounded = true) (v : Word) : (p.receive v).bounded = true := by
  rw [Port.bounded_iff] at h ⊢
  unfold Port.receive
  split
  · rename_i hr
    simp only [Bool.and_eq_true, Bool.not_eq_true', Port.icFull, decide_eq_false_iff_not, not_le] at hr
    refine ⟨?_, h.2⟩
    rw [List.length_append, List.length_singleton]
    exact hr.1.2
  · exact h

theorem Port.send_bounded {p : Port} (h : p.bounded = true) : p.send.bounded = true := by
  rw [Port.bounded_iff] at h ⊢
  unfold Port.send
  split
  · rw [Port.arbitrate_inFifo, Port.arbitrate_outFifo]
    rw [List.length_tail]
    exact ⟨h.1, (Nat.sub_le _ _).trans h.2⟩
  · exact h

theorem Port.ask_bounded {p : Port} (h : p.bounded = true) : p.ask.bounded = true := by
  rw [Port.bounded_iff] at h ⊢
  unfold Port.ask
  split
  · exact h
  · rw [Port.arbitrate_inFifo, Port.arbitrate_outFifo]
    exact h

theorem Port.grant_bounded {p : Port} (h : p.bounded = true) : p.grant.bounded = true := by
  rw [Port.bounded_iff] at h ⊢
  unfold Port.grant
  split
  · rw [Port.arbitrate_inFifo, Port.arbitrate_outFifo]
    exact h
  · exact h

theorem Devices.Sound.port {d : Devices} (h : d.Sound) (k : Fin 6) : (d.ports[k]).bounded = true := by
  obtain ⟨-, -, -, hp, -⟩ := h
  exact hp k

/-! ### Timers and DMA: the interrupt pulses (10 R44) -/

/-- A pulse of an internal interrupt: bits 24 to 31. -/
theorem Devices.Sound.pulse {d : Devices} (h : d.Sound) {i : Nat} (hi : 24 ≤ i) (hn : i < 32) :
    putBit d.pulses i true &&& 0x00FFFFFF = 0 := by
  have clear : ∀ k : Fin 32, 24 ≤ k.val → (0x00FFFFFF : Word).getLsbD k = false := by decide
  exact putBit_masked h.1 hn (clear ⟨i, hn⟩ hi) true

theorem Devices.Sound.setTimer {d : Devices} (h : d.Sound) (n : Fin 2) (x : Timer × Bool) : (d.setTimer n x).Sound := by
  refine ⟨?_, h.2⟩
  unfold Devices.setTimer
  dsimp only
  split
  · unfold timerFlag
    split <;> exact h.pulse (by decide) (by decide)
  · exact h.1

theorem Devices.Sound.timersH1 {d : Devices} (h : d.Sound) : d.timersH1.Sound := (h.setTimer 0 _).setTimer 1 _

theorem Devices.Sound.setDma {d : Devices} (h : d.Sound) (c : Fin 6) (x : DmaChannel × Bool) : (d.setDma c x).Sound := by
  refine ⟨?_, h.2⟩
  unfold Devices.setDma
  dsimp only
  split
  · exact h.pulse (by omega) (by omega)
  · exact h.1

/-! ### The UART (66 R622–R625) -/

/-- Both FIFOs of the UART are within their depth. -/
def Uart.fits (u : Uart) : Prop := u.rx.length ≤ uartDepth ∧ u.tx.length ≤ uartDepth

theorem Uart.accept_fits {u : Uart} (h : u.fits) (c : RxChar) : (u.accept c).fits := by
  unfold Uart.accept
  dsimp only
  split
  · exact h
  · rename_i hr
    refine ⟨?_, h.2⟩
    simpa using uartRoom_le (by simpa using hr)

theorem Uart.receive_fits {u : Uart} (h : u.fits) (c : RxChar) : (u.receive c).fits := by
  unfold Uart.receive
  split
  · exact h
  · exact Uart.accept_fits h c

/-- The UART when its shift register has sent a character, which loop-back receives. -/
def Uart.looped (u : Uart) : Uart :=
  match u.shift with
  | some b => if u.loop then u.accept ⟨b, false, false, false⟩ else u
  | none => u

/-- The UART with the next character of the transmitter FIFO in its shift register. -/
def Uart.loaded (u : Uart) : Uart :=
  match u.tx with
  | [] => { u with shift := none }
  | b :: t => { u with shift := some b, tx := t, thre := u.thre || t.isEmpty }

theorem Uart.shiftOut_eq (u : Uart) : u.shiftOut = if !u.runs then u else u.looped.loaded := rfl

theorem Uart.looped_fits {u : Uart} (h : u.fits) : u.looped.fits := by
  unfold Uart.looped
  split
  · split
    · exact Uart.accept_fits h _
    · exact h
  · exact h

theorem Uart.loaded_fits {u : Uart} (h : u.fits) : u.loaded.fits := by
  unfold Uart.loaded
  split
  · exact h
  · rename_i b t ht
    have ht' := h.2
    rw [ht, List.length_cons] at ht'
    exact ⟨h.1, Nat.le_of_succ_le ht'⟩

theorem Uart.shiftOut_fits {u : Uart} (h : u.fits) : u.shiftOut.fits := by
  rw [Uart.shiftOut_eq]
  split
  · exact h
  · exact Uart.loaded_fits (Uart.looped_fits h)

theorem Devices.Sound.setUart {d : Devices} (h : d.Sound) {u : Uart} (hu : d.uart.fits → u.fits) :
    ({ d with uart := u } : Devices).Sound := by
  obtain ⟨h1, h2, h3, h4, h5, h6, h7, h8⟩ := h
  obtain ⟨hr, ht⟩ := hu ⟨h6, h7⟩
  exact ⟨h1, h2, h3, h4, h5, hr, ht, h8⟩

/-! ### Ethernet (66 R578, R582) -/

/-- In loop-back a packet that has been sent is received. -/
theorem Ethernet.transmitted_rxWords {e : Ethernet} (h : e.rxWords ≤ 4096) : e.transmitted.rxWords ≤ 4096 := by
  unfold Ethernet.transmitted
  split
  · exact h
  · dsimp only
    split
    · exact Ethernet.receive_rxWords (e := { e with tx := .sent _ }) h _
    · exact h

theorem Ethernet.busError_rxFifo (e : Ethernet) (b : Bool) : (e.busError b).rxFifo = e.rxFifo := by
  unfold Ethernet.busError
  split <;> rfl

theorem Ethernet.phy_rxFifo (e : Ethernet) (n : Fin 32) (v : BitVec 16) : (e.phy n v).rxFifo = e.rxFifo := by
  unfold Ethernet.phy
  split <;> rfl

theorem Devices.Sound.setEthernet {d : Devices} (h : d.Sound) {e : Ethernet}
    (he : d.ethernet.rxWords ≤ 4096 → e.rxWords ≤ 4096) : ({ d with ethernet := e } : Devices).Sound := by
  obtain ⟨h1, h2, h3, h4, h5, h6, h7, h8⟩ := h
  exact ⟨h1, h2, h3, h4, h5, h6, h7, he h8⟩

/-! ### The 1553 device (66 R609) -/

theorem Devices.Sound.setMil {d : Devices} (h : d.Sound) {m : Mil} (hm : d.mil.isio.length ≤ 8 → m.isio.length ≤ 8) :
    ({ d with mil := m } : Devices).Sound := by
  obtain ⟨h1, h2, h3, h4, h5, h6⟩ := h
  exact ⟨h1, h2, h3, h4, hm h5, h6⟩

/-! ### Reset and device reads (70 R703) -/

theorem Devices.reset_sound (straps : BitVec 6) : (Devices.reset straps).Sound := by
  refine ⟨show (Devices.reset 0).pulses &&& _ = 0 by decide, show (Devices.reset 0).globalControl &&& _ = 0 by decide,
    show (Devices.reset 0).localControl &&& _ = 0 by decide,
    show ∀ k : Fin 6, ((Devices.reset 0).ports[k]).bounded = true by decide, ?_⟩
  exact ⟨Nat.zero_le _, Nat.zero_le _, Nat.zero_le _, Nat.zero_le _⟩

theorem Devices.Sound.readDevice {d e : Devices} (h : d.Sound) {k : Device} {off draw : Nat} {a v : Word}
    (hr : d.readDevice k off draw a = some (v, e)) : e.Sound := by
  obtain ⟨u, b, m, he, hq⟩ := Devices.readDevice_shape hr
  exact h.replace (n := d.ethernet) (r := d.milRun) (g := d.milHeard) he hq

theorem Devices.Sound.writeDevice {d e : Devices} (h : d.Sound) {k : Device} {off : Nat} {v : Word}
    (hw : d.writeDevice k off v = some e) : e.Sound := by
  obtain ⟨u, n, b, m, r, g, he, hq⟩ := Devices.writeDevice_shape hw
  exact h.replace he hq

end Sys2Proof.Machine
end

section
/-! PROOFS. The invariant under the moves of the other agents and the look of the interrupt controller (part of O7). -/

namespace Sys2Proof.Machine

/-! ### Computations that keep the invariant -/

/-- Where a computation finishes, it leaves a state that meets the invariant. -/
def Res.Keeps {α : Type} (x : Res α) : Prop := ∀ a t, x = .ok a t → t.Inv

theorem Res.Keeps.ok {α : Type} {a : α} {s : State} (h : s.Inv) : (Res.ok a s).Keeps := fun _ _ e => by
  cases e
  exact h

theorem Res.Keeps.wait {α : Type} (w : Wait) : (Res.wait w : Res α).Keeps := fun _ _ e => by cases e

theorem Res.Keeps.bind {α β : Type} {x : Res α} {k : α → State → Res β} (h : x.Keeps)
    (hk : ∀ a t, t.Inv → (k a t).Keeps) : (x.bind k).Keeps := fun _ _ e => by
  obtain ⟨a, t, hx, e⟩ := Res.bind_eq_ok e
  exact hk a t (h a t hx) _ _ e

theorem Res.Keeps.andThen {α : Type} {x : Res α} {f : α → State → State} (h : x.Keeps)
    (hf : ∀ a t, t.Inv → (f a t).Inv) : (x.andThen f).Keeps := h.bind fun a t ht => .ok (hf a t ht)

theorem memRead_keeps {s : State} (h : s.Inv) (k : Access) (a : Word) : (memRead k a s).Keeps :=
  fun _ _ e => (memRead_accesses e).changes.inv h

theorem memWrite_keeps {s : State} (h : s.Inv) (k : Access) (a v : Word) : (memWrite k a v s).Keeps :=
  fun _ _ e => (memWrite_accesses e).changes.inv h

theorem State.push_keeps {s : State} (h : s.Inv) (v : Word) : (s.push v).Keeps := fun _ _ e => (State.push_changes e).inv h

/-! ### Updates of single parts -/

/-- The invariant depends only on memory, the vector tables, ST, IIF, the devices and the LRU stack. -/
theorem State.Inv.congr {s t : State} (h : s.Inv) (hm : t.mem = s.mem) (hi : t.ivtp = s.ivtp) (ht : t.tvtp = s.tvtp)
    (hst : t.st = s.st) (hiif : t.iif = s.iif) (hd : t.dev = s.dev) (hc : t.cache.lru = s.cache.lru) : t.Inv := by
  unfold State.Inv at h ⊢
  rw [hm, hi, ht, hst, hiif, hd, hc]
  exact h

theorem State.Inv.sound {s : State} (h : s.Inv) : s.dev.Sound := by
  obtain ⟨-, -, -, -, -, hd, -⟩ := h
  exact hd

theorem State.Inv.iif {s : State} (h : s.Inv) : s.iif &&& 0x00FE0000 = 0 := by
  obtain ⟨-, -, -, -, hiif, -⟩ := h
  exact hiif

theorem State.Inv.lru {s : State} (h : s.Inv) : s.cache.lru.Perm [0, 1, 2, 3] := by
  obtain ⟨-, -, -, -, -, -, hc⟩ := h
  exact hc

theorem State.Inv.wf {s : State} (h : s.Inv) : Memory.wf s.mem = true := h.1

theorem State.Inv.setDev {s : State} (h : s.Inv) {d : Devices} (hd : d.Sound) : ({ s with dev := d } : State).Inv := by
  obtain ⟨hm, hi, ht, hst, hiif, -, hc⟩ := h
  exact ⟨hm, hi, ht, hst, hiif, hd, hc⟩

theorem State.Inv.setMem {s : State} (h : s.Inv) {m : List Host.Cell} (hm : Memory.wf m = true) :
    ({ s with mem := m } : State).Inv := by
  obtain ⟨-, hrest⟩ := h
  exact ⟨hm, hrest⟩

theorem State.Inv.setIif {s : State} (h : s.Inv) {v : Word} (hv : v &&& 0x00FE0000 = 0) :
    ({ s with iif := v } : State).Inv := by
  obtain ⟨hm, hi, ht, hst, -, hd, hc⟩ := h
  exact ⟨hm, hi, ht, hst, hv, hd, hc⟩

theorem State.Inv.setSt {s : State} (h : s.Inv) {v : Word} (hv : v &&& ~~~stWritable = 0) :
    ({ s with st := v } : State).Inv := by
  obtain ⟨hm, hi, ht, -, hiif, hd, hc⟩ := h
  exact ⟨hm, hi, ht, hv, hiif, hd, hc⟩

theorem State.Inv.setCache {s : State} (h : s.Inv) {c : Cache} (hc : c.lru.Perm [0, 1, 2, 3]) :
    ({ s with cache := c } : State).Inv := by
  obtain ⟨hm, hi, ht, hst, hiif, hd, -⟩ := h
  exact ⟨hm, hi, ht, hst, hiif, hd, hc⟩

theorem State.Inv.emit {s : State} (h : s.Inv) {l : List Output} : (s.emit l).Inv := h

/-- Clearing a bit keeps what a mask shows zero. -/
theorem putBit_false_masked {n : Nat} {v m : BitVec n} (h : v &&& m = 0) (i : Nat) : putBit v i false &&& m = 0 := by
  rw [masked_zero_iff] at h ⊢
  intro j hj
  simp [putBit, h j hj]

theorem State.Inv.withDev {s : State} (h : s.Inv) {f : Devices → Devices} (hf : s.dev.Sound → (f s.dev).Sound) :
    (s.withDev f).Inv := h.setDev (hf h.sound)

/-! ### The look of the interrupt controller (60 R653, R657) -/

/-- An edge sets the FLAG of its pin only. -/
theorem State.edge_masked (s : State) {v : Word} (h : v &&& 0x00FE0000 = 0) (x : Fin 4) : s.edge v x &&& 0x00FE0000 = 0 := by
  have clear : ∀ x : Fin 4, (0x00FE0000 : Word).getLsbD (4 * x.val + 2) = false := by decide
  unfold State.edge
  split
  · exact putBit_masked h (by omega) (clear x) true
  · exact h

theorem State.look_inv {s : State} (h : s.Inv) : s.look.Inv := by
  obtain ⟨hm, hi, ht, hst, hiif, ⟨hp, hd⟩, hc⟩ := h
  have pulses : s.dev.pulses &&& 0x00FE0000 = 0 := by
    rw [masked_zero_iff] at hp ⊢
    have sub : ∀ j : Fin 32, (0x00FE0000 : Word).getLsbD j = true → (0x00FFFFFF : Word).getLsbD j = true := by decide
    intro j hj
    by_cases hn : j < 32
    · exact hp j (sub ⟨j, hn⟩ hj)
    · exact BitVec.getLsbD_of_ge _ _ (by omega)
  have seen : (s.edge (s.edge (s.edge (s.edge s.iif 0) 1) 2) 3 ||| s.dev.pulses) &&& 0x00FE0000 = 0 := by
    rw [BitVec.and_or_distrib_right, pulses,
      s.edge_masked (s.edge_masked (s.edge_masked (s.edge_masked hiif 0) 1) 2) 3]
    rfl
  refine ⟨hm, hi, ht, hst, ?_, ⟨by simp [State.look], hd⟩, hc⟩
  unfold State.look
  dsimp only
  split
  · exact putBit_masked seen (by decide) (by decide) true
  · exact seen

theorem State.sample_inv {s : State} (h : s.Inv) : s.sample.Inv := by
  unfold State.sample
  split
  · exact State.look_inv h
  · exact State.look_inv h

/-! ### Forwarding to the DMA (60 R659) -/

theorem State.clearIiof_inv {s : State} (h : s.Inv) (x : Fin 4) : (s.clearIiof x).Inv := by
  unfold State.clearIiof
  split
  · split
    · exact h
    · exact h.setIif (putBit_false_masked h.iif _)
  · exact h

theorem State.clearTimer_inv {s : State} (h : s.Inv) (n : Fin 2) : (s.clearTimer n).Inv := by
  unfold State.clearTimer
  split
  · exact h.setIif (putBit_false_masked h.iif _)
  · exact h

theorem State.forward_inv {s : State} (h : s.Inv) : s.forward.Inv := by
  unfold State.forward
  split
  · exact h
  · have cleared : (((((((s.clearIiof 0).clearIiof 1).clearIiof 2).clearIiof 3).clearTimer 0).clearTimer 1)).Inv :=
      State.clearTimer_inv (State.clearTimer_inv (State.clearIiof_inv (State.clearIiof_inv (State.clearIiof_inv
        (State.clearIiof_inv h 0) 1) 2) 3) 0) 1
    exact cleared.setDev cleared.sound

/-! ### The DMA (65 R520–R548) -/

theorem State.afterDma_inv {s : State} (h : s.Inv) (c : Fin 6) (aux : Bool) (f : DmaChannel → DmaChannel × Bool) :
    (s.afterDma c aux f).Inv := by
  unfold State.afterDma
  dsimp only
  split
  · exact h.setDev (h.sound.setDma c _)
  · exact h

theorem State.dmaAccess_keeps {s : State} (h : s.Inv) (c : Fin 6) (op : DmaOp) (a : Word) : (s.dmaAccess c op a).Keeps := by
  cases op with
  | load aux => exact (memRead_keeps h .dma a).andThen fun _ _ ht => State.afterDma_inv ht c aux _
  | fetch aux => exact (memRead_keeps h .dma a).andThen fun _ _ ht => State.afterDma_inv ht c aux _
  | store aux v => exact (memWrite_keeps h .dma a v).andThen fun _ _ ht => State.afterDma_inv ht c aux _
  | install aux v =>
    unfold State.dmaAccess
    dsimp only
    split
    · exact .wait _
    · exact .ok (State.afterDma_inv h c aux _)

theorem State.dmaTry_keeps {s : State} (h : s.Inv) (c : Fin 6) (op : DmaOp) (a : Word) (g : Bool) :
    (s.dmaTry c op a g).Keeps := by
  have tried := State.dmaAccess_keeps (s := { s with dmaHeld := none, dev := { s.dev with busGrant := g } })
    (h.setDev h.sound) c op a
  unfold State.dmaTry
  dsimp only
  split
  · rename_i t e
    have ht := tried _ _ e
    exact .ok (ht.setDev ht.sound)
  · exact .ok h
  · exact fun _ _ e => by cases e
  · exact fun _ _ e => by cases e

theorem State.dmaMove_keeps {s : State} (h : s.Inv) : s.dmaMove.Keeps := by
  have ticked : ({ s with dev := { s.dev with dma := s.dev.dma.map DmaChannel.tick } } : State).Inv := h.setDev h.sound
  unfold State.dmaMove
  dsimp only
  split
  · exact State.dmaTry_keeps ticked _ _ _ _
  · split
    · exact .ok ticked
    · refine State.dmaTry_keeps ?_ _ _ _ _
      exact ticked.setDev ticked.sound

/-! ### The other core (66 R561) -/

theorem State.otherRead_inv {s : State} (h : s.Inv) (a : Word) : (s.otherRead a).Inv := by
  unfold State.otherRead
  split
  · split
    · split
      · rename_i x hx
        exact (h.setDev (h.sound.readDevice hx) :)
      · exact h
    · exact h
  · exact h

theorem State.otherWrite_inv {s : State} (h : s.Inv) (a v : Word) : (s.otherWrite a v).Inv := by
  unfold State.otherWrite
  split
  · split
    · refine h.setDev ?_
      cases e : s.dev.writeDevice _ _ v with
      | none => exact h.sound
      | some d => exact h.sound.writeDevice e
    · exact h
  · split
    · exact h.setMem (Memory.wf_writeWord h.wf _ _)
    · exact h
  · split
    · exact h.setDev h.sound
    · exact h
  · exact h

/-! ### The 1553 device -/

theorem State.milMoved_inv {s : State} (h : s.Inv) {x : MilMove} (hx : Memory.wf x.mem = true) : (s.milMoved x).Inv :=
  (State.Inv.withDev (h.setMem hx) fun hd => hd.setMil (Mil.effects_isio x.effects)).emit

theorem State.milWord_inv {s : State} (h : s.Inv) (c : Bool) : (s.milWord c).Inv := by
  unfold State.milWord
  split
  · exact h
  · rename_i j hj
    refine (State.milMoved_inv h (j.access_wf h.wf)).withDev fun hd => ?_
    split <;> exact hd

theorem State.milEnd_inv {s : State} (h : s.Inv) (b : MilBus) : (s.milEnd b).Inv := by
  unfold State.milEnd
  split
  · exact h
  · rename_i j hj
    split
    · exact h
    · exact (State.milMoved_inv h (by rw [MilJob.replied_mem]; exact h.wf)).withDev id

theorem State.milHear_inv {s : State} (h : s.Inv) (g : MilMessage) : (s.milHear g).Inv := by
  unfold State.milHear
  split
  · exact h
  · exact (State.milMoved_inv h (by rw [Mil.heard_mem]; exact h.wf)).withDev id

theorem State.milBurst_inv {s : State} (h : s.Inv) : s.milBurst.Inv := by
  unfold State.milBurst
  split
  · exact State.milHear_inv h _
  · exact h

/-! ### Every move of another agent -/

theorem State.onDevice_inv {s : State} (h : s.Inv) (k : Device) {f : State → State} (hf : s.Inv → (f s).Inv) :
    (s.onDevice k f).Inv := by
  unfold State.onDevice
  split
  · exact hf h
  · exact h

theorem State.clocked_inv {s : State} (h : s.Inv) {f : Devices → Devices} (hf : s.dev.Sound → (f s.dev).Sound) :
    (s.clocked f).Inv := by
  unfold State.clocked
  split
  · exact h
  · exact h.withDev hf

/-- A reset keeps only memory of what the invariant speaks of, and that is canonical. -/
theorem State.restart_inv {s : State} (h : s.Inv) (romen : Bool) (loc : BitVec 2) : (s.restart romen loc).Inv :=
  ⟨h.wf, show State.reset.ivtp &&& _ = 0 by decide, show State.reset.tvtp &&& _ = 0 by decide,
    show State.reset.st &&& _ = 0 by decide, show State.reset.iif &&& _ = 0 by decide, Devices.reset_sound _,
    List.Perm.refl _⟩

/-- A port replaced by one that is as bounded. -/
theorem State.clockedPort_inv {s : State} (h : s.Inv) (k : Fin 6) {f : Port → Port}
    (hf : ∀ {p : Port}, p.bounded = true → (f p).bounded = true) :
    (s.clocked fun d => d.setPort k (f d.ports[k])).Inv :=
  State.clocked_inv h fun hd => hd.setPort k (hf (hd.port k))

theorem State.move_keeps {s : State} (h : s.Inv) (i : Input) : (s.move i).Keeps := by
  cases i with
  | cpu => exact .ok h
  | h1 => exact .ok (State.clocked_inv h Devices.Sound.timersH1)
  | tclk t level => exact .ok (State.clocked_inv h fun hd => hd.setTimer t _)
  | nmi level | iiof x level | romen level | busPins r0 r1 ae c0 c1 de => exact .ok h
  | externalWrite a v =>
    refine .ok ?_
    split
    · exact h.setMem (Memory.wf_writeWord h.wf _ _)
    · exact h
  | portReceive k v => exact .ok (State.clockedPort_inv h k (f := fun p => p.receive v) fun hp => Port.receive_bounded hp v)
  | portSend k =>
    refine .ok ?_
    split
    · exact h
    · exact (h.withDev fun hd => hd.setPort k (Port.send_bounded (hd.port k))).emit
  | portAsk k => exact .ok (State.clockedPort_inv h k Port.ask_bounded)
  | portGrant k => exact .ok (State.clockedPort_inv h k Port.grant_bounded)
  | dma =>
    unfold State.move
    dsimp only
    split
    · exact .ok h
    · exact State.dmaMove_keeps h
  | otherAcquire | otherRelease | otherRc v => exact .ok (h.withDev id)
  | otherRead a => exact .ok (State.otherRead_inv h a)
  | otherWrite a v => exact .ok (State.otherWrite_inv h a v)
  | uartReceive c =>
    exact .ok (State.onDevice_inv h _ fun h => h.withDev fun hd => hd.setUart fun hu => Uart.receive_fits hu c)
  | uartShift => exact .ok (State.onDevice_inv h _ fun h => (h.withDev fun hd => hd.setUart Uart.shiftOut_fits).emit)
  | uartTimeout | uartModem v => exact .ok (State.onDevice_inv h _ fun h => h.withDev fun hd => hd.setUart id)
  | ethernetDma =>
    exact .ok (State.onDevice_inv h _ fun h => State.Inv.withDev (h.setMem (Ethernet.access_wf _ h.wf)) fun hd =>
      hd.setEthernet (Ethernet.access_rxWords _ _).trans)
  | ethernetSent =>
    exact .ok (State.onDevice_inv h _ fun h => (h.withDev fun hd => hd.setEthernet Ethernet.transmitted_rxWords).emit)
  | ethernetReceive f =>
    exact .ok (State.onDevice_inv h _ fun h => h.withDev fun hd => hd.setEthernet fun he => Ethernet.receive_rxWords he f)
  | ethernetBusError r =>
    exact .ok (State.onDevice_inv h _ fun h => h.withDev fun hd => hd.setEthernet fun he => by
      rwa [Ethernet.rxWords, Ethernet.busError_rxFifo])
  | ethernetPhy n v =>
    exact .ok (State.onDevice_inv h _ fun h => h.withDev fun hd => hd.setEthernet fun he => by
      rwa [Ethernet.rxWords, Ethernet.phy_rxFifo])
  | usbLine status frame | usbEvent src | usbToken x => exact .ok (State.onDevice_inv h _ fun h => h.withDev id)
  | usbWord =>
    exact .ok (State.onDevice_inv h _ fun h => (State.Inv.withDev (h.setMem (Usb.access_wf _ h.wf)) id).emit)
  | milWord c => exact .ok (State.onDevice_inv h _ fun h => State.milWord_inv h c)
  | milController b => exact .ok (State.onDevice_inv h _ fun h => State.milEnd_inv h b)
  | milBurst => exact .ok (State.onDevice_inv h _ State.milBurst_inv)
  | milMessage g =>
    refine .ok (State.onDevice_inv h _ fun h => ?_)
    split
    · exact h
    · exact State.milHear_inv h g
  | milRamError | milClock w0 w1 => exact .ok (State.onDevice_inv h _ fun h => h.withDev fun hd => hd.setMil id)
  | reset romen loc => exact .ok (State.restart_inv h romen loc)

end Sys2Proof.Machine
end

section
/-! PROOFS. The invariant under the moves of the CPU: reset, the boot loader, interrupts, fetch and execution; and O7. -/

namespace Sys2Proof.Machine

/-! ### The boot loader (70 R710–R716) -/

theorem State.Inv.bootTo {s : State} (h : s.Inv) {b : Boot} : (s.bootTo b).Inv := h

theorem State.Inv.setLock {s : State} (h : s.Inv) {a : Word} {b : Bool} : (s.setLock a b).Inv :=
  (s.setLock_changes a b).inv h

theorem State.Inv.putX {s : State} (h : s.Inv) {x : XReg} {v : Word} : (s.putX x v).Inv := (s.putX_changes x v).inv h

theorem State.Inv.writeIif {s : State} (h : s.Inv) {v : Word} : (s.writeIif v).Inv := (s.put_changes .iif v).inv h

theorem State.narrowWord_keeps {s : State} (h : s.Inv) (a : Word) (width : Nat) : (s.narrowWord a width).Keeps := by
  unfold State.narrowWord
  split
  · exact memRead_keeps h _ _
  · split
    · exact (memRead_keeps h _ _).bind fun _ _ h => (memRead_keeps h _ _).bind fun _ _ h => .ok h
    · exact (memRead_keeps h _ _).bind fun _ _ h => (memRead_keeps h _ _).bind fun _ _ h =>
        (memRead_keeps h _ _).bind fun _ _ h => (memRead_keeps h _ _).bind fun _ _ h => .ok h

theorem State.streamWord_keeps {s : State} (h : s.Inv) (b : BootSource) : (s.streamWord b).Keeps := by
  cases b with
  | memory a width => exact (State.narrowWord_keeps h a width).bind fun _ _ h => .ok h
  | port k =>
    unfold State.streamWord
    dsimp only
    split
    · exact .wait _
    · exact (memRead_keeps h _ _).bind fun _ _ h => .ok h
  | uart crc bytes => exact .ok h

theorem State.stores_keeps {s : State} (h : s.Inv) (l : List (Word × Word)) : (s.stores l).Keeps := by
  induction l generalizing s with
  | nil => exact .ok h
  | cons x l ih => exact (memWrite_keeps h _ _ _).bind fun _ _ h => ih h

theorem State.bootWidth_keeps {s : State} (h : s.Inv) (b : Boot) (a : Word) : (s.bootWidth b a).Keeps :=
  (memRead_keeps h _ _).bind fun _ _ h => .ok h.bootTo

theorem State.bootCheck_keeps {s : State} (h : s.Inv) (b : Boot) : (s.bootCheck b).Keeps := by
  unfold State.bootCheck
  dsimp only
  split
  · exact .ok h.bootTo
  · exact State.bootWidth_keeps h b _
  · split
    · exact .ok h.bootTo
    · split
      · split
        · exact .ok h.bootTo
        · exact .ok h
      · exact .ok h

theorem State.bootAcquire_keeps {s : State} (h : s.Inv) (b : Boot) (d : Device) (second : Bool) :
    (s.bootAcquire b d second).Keeps := (memRead_keeps h.setLock _ _).bind fun _ _ h => .ok h.bootTo

theorem State.bootConnect_keeps {s : State} (h : s.Inv) (b : Boot) (d : Device) (second : Bool) :
    (s.bootConnect b d second).Keeps := by
  unfold State.bootConnect
  dsimp only
  split
  · exact (memWrite_keeps h _ _ _).bind fun _ _ h => .ok h.bootTo
  · refine Res.Keeps.bind (memRead_keeps ?_ _ _) fun _ _ h => (memWrite_keeps h _ _ _).bind fun _ _ h =>
      (memWrite_keeps h _ _ _).bind fun _ _ h => .ok h.setLock.bootTo
    exact h

theorem State.bootUartInit_keeps {s : State} (h : s.Inv) (b : Boot) : (s.bootUartInit b).Keeps :=
  (memRead_keeps h _ _).bind fun _ _ h => (State.stores_keeps h _).bind fun _ _ h => .ok h.bootTo

theorem State.bootByte_keeps {s : State} (h : s.Inv) (b : Boot) (crc : Byte) (l : List Byte) :
    (s.bootByte b crc l).Keeps := by
  refine (memRead_keeps h _ _).bind fun _ _ h => ?_
  split
  · refine (memRead_keeps h _ _).bind fun _ _ h => ?_
    dsimp only
    split
    · exact (memWrite_keeps h _ _ _).bind fun _ _ h => .ok h.bootTo
    · exact .ok h.bootTo
  · exact .ok h.bootTo

theorem State.bootEthernetInit_keeps {s : State} (h : s.Inv) (b : Boot) : (s.bootEthernetInit b).Keeps := by
  refine Res.Keeps.bind (State.stores_keeps ?_ _) fun _ _ h => .ok h.bootTo
  exact h

theorem State.bootFrames_keeps {s : State} (h : s.Inv) (b : Boot) : (s.bootFrames b).Keeps := by
  refine (memRead_keeps h _ _).bind fun _ _ h => ?_
  split
  · exact .ok h.bootTo
  · exact (State.stores_keeps h _).bind fun _ _ h => .ok h.bootTo

/-- GIE set by the loader is a writable bit. -/
theorem State.bootUsbInit_keeps {s : State} (h : s.Inv) (b : Boot) : (s.bootUsbInit b).Keeps := by
  refine Res.Keeps.bind (State.stores_keeps ?_ _) fun _ t h => .ok ?_
  · exact State.Inv.writeIif (State.Inv.putX (s := { s with sp := 0x002FFF00 }) h)
  · obtain ⟨-, -, -, hst, -⟩ := id h
    refine State.Inv.bootTo (h.setSt ?_)
    rw [BitVec.and_or_distrib_right, hst]
    decide

theorem State.acknowledge_inv {s : State} (h : s.Inv) (v : Nat) : (s.acknowledge v).Inv := by
  unfold State.acknowledge
  split
  · exact h
  · dsimp only
    split
    · exact h
    · exact h.setIif (putBit_false_masked h.iif _)

theorem State.bootInterrupt_keeps {s : State} (h : s.Inv) (v : Nat) : (s.bootInterrupt v).Keeps :=
  State.push_keeps ((State.saveStatus_changes _).inv (State.acknowledge_inv h v)) _

theorem State.bootPackets_keeps {s : State} (h : s.Inv) (b : Boot) (n : Nat) : (s.bootPackets b n).Keeps := by
  unfold State.bootPackets
  split
  · exact (State.bootInterrupt_keeps h 1).bind fun _ _ h => .ok h.bootTo
  · split
    · refine (State.bootInterrupt_keeps h 3).bind fun _ _ h => (memRead_keeps h _ _).bind fun _ _ h => ?_
      dsimp only
      split
      · exact .ok h.writeIif.bootTo
      · exact Res.Keeps.bind (fun _ _ e => (State.exceptionReturn_changes e).inv h) fun _ _ h => .ok h.bootTo
    · exact .ok h.bootTo

/-- The loader leaves free values only in the flags of ST. -/
theorem State.leftovers_inv {s : State} (h : s.Inv) : s.leftovers.Inv := by
  obtain ⟨hm, hi, ht, hst, hiif, hd, hc⟩ := h
  refine ⟨hm, hi, ht, ?_, hiif, hd, hc⟩
  rw [masked_zero_iff] at hst ⊢
  intro j hj
  have low : (0x7F : Word).getLsbD j = false := by
    have disjoint : ∀ k : Fin 32, (~~~stWritable).getLsbD k = true → (0x7F : Word).getLsbD k = false := by decide
    by_cases hn : j < 32
    · exact disjoint ⟨j, hn⟩ hj
    · exact BitVec.getLsbD_of_ge _ _ (by omega)
  show (merge 0x7F _ s.st).getLsbD j = false
  rw [merge_getLsbD, low]
  exact hst j hj

theorem State.bootDone_inv {s : State} (h : s.Inv) (b : Boot) : (s.bootDone b).Inv := by
  have left := State.leftovers_inv h
  unfold State.bootDone
  generalize s.leftovers = t at left
  exact left.congr rfl rfl rfl rfl rfl rfl rfl

theorem State.bootWord_keeps {s : State} (h : s.Inv) (b : Boot) : (s.bootWord b).Keeps := by
  obtain ⟨stage, source, entry⟩ := b
  refine Res.Keeps.bind (State.streamWord_keeps h source) fun _ t h => ?_
  cases stage with
  | globalControl => exact Res.Keeps.bind (memWrite_keeps h _ _ _) fun _ _ h => .ok h.bootTo
  | localControl => exact Res.Keeps.bind (memWrite_keeps h _ _ _) fun _ _ h => .ok h.bootTo
  | data dst n => exact Res.Keeps.bind (memWrite_keeps h _ _ _) fun _ _ h => .ok h.bootTo
  | size => exact Res.Keeps.ok h.bootTo
  | dest n => exact Res.Keeps.ok h.bootTo
  | ivtp => exact Res.Keeps.ok h.putX.bootTo
  | tvtp => exact Res.Keeps.ok h.putX.bootTo
  | iack => exact Res.Keeps.ok ((t.iackFall_changes _).inv h).bootTo
  | _ => exact Res.Keeps.ok h

theorem State.bootIack_keeps {s : State} (h : s.Inv) (b : Boot) (a : Word) : (s.bootIack b a).Keeps := by
  refine (memRead_keeps h _ _).bind fun _ t h => ?_
  have risen : (t.iackRise a).Inv := (t.iackRise_changes a).inv h
  dsimp only
  split
  · exact .ok risen.bootTo
  · exact .ok (State.bootDone_inv risen b)

theorem State.bootFinish_keeps {s : State} (h : s.Inv) (b : Boot) (last : Word) : (s.bootFinish b last).Keeps :=
  (State.stores_keeps h _).bind fun _ _ h => (memWrite_keeps h _ _ _).bind fun _ _ h => .ok (State.bootDone_inv h.setLock b)

theorem State.bootTaken_keeps {s : State} (h : s.Inv) (b : Boot) : (s.bootTaken b).Keeps := by
  unfold State.bootTaken
  split
  · exact (State.streamWord_keeps h _).bind fun _ _ h => .ok h.bootTo
  · exact State.bootWord_keeps h b

theorem State.bootMove_keeps {s : State} (h : s.Inv) (b : Boot) : (s.bootMove b).Keeps := by
  unfold State.bootMove
  split
  · exact State.bootCheck_keeps h b
  · exact State.bootWidth_keeps h b _
  · exact (memWrite_keeps h _ _ _).bind fun _ _ h => .ok h.bootTo
  · exact State.bootAcquire_keeps h b _ _
  · exact State.bootConnect_keeps h b _ _
  · exact State.bootUartInit_keeps h b
  · exact State.bootEthernetInit_keeps h b
  · exact State.bootFrames_keeps h b
  · exact State.bootUsbInit_keeps h b
  · exact State.bootPackets_keeps h b _
  · exact State.bootIack_keeps h b _
  · exact State.bootFinish_keeps h b _
  · exact .ok h
  all_goals
    split
    · split
      · exact State.bootTaken_keeps h b
      · exact State.bootByte_keeps h b _ _
    · exact State.bootTaken_keeps h b

theorem State.start_keeps {s : State} (h : s.Inv) : s.start.Keeps := by
  unfold State.start
  split
  · exact .ok h.bootTo
  · exact (memRead_keeps h _ _).bind fun _ _ h => .ok h

/-! ### The instruction cache (20 R125, R126) -/

/-- Moving a segment to the top keeps the LRU stack a permutation. -/
theorem Cache.touch_perm {c : Cache} (h : c.lru.Perm [0, 1, 2, 3]) (i : Fin 4) : (c.touch i).lru.Perm [0, 1, 2, 3] := by
  have top : ∀ i : Fin 4, (i :: ([0, 1, 2, 3] : List (Fin 4)).filter (· != i)).Perm [0, 1, 2, 3] := by decide
  exact ((h.filter _).cons i).trans (top i)

theorem Cache.hit_perm {c : Cache} (h : c.lru.Perm [0, 1, 2, 3]) (a : Word) : (c.hit a).lru.Perm [0, 1, 2, 3] := by
  unfold Cache.hit
  split
  · exact Cache.touch_perm h _
  · exact h

theorem Cache.fill_perm {c : Cache} (h : c.lru.Perm [0, 1, 2, 3]) (a w : Word) : (c.fill a w).lru.Perm [0, 1, 2, 3] := by
  unfold Cache.fill
  exact Cache.touch_perm h _

/-! ### Fetch and execution (20 R126, 43 R370) -/

theorem State.fetchWord_keeps {s : State} (h : s.Inv) : s.fetchWord.Keeps := by
  have plain : ((memRead .program s.pc s).bind fun w t => .ok w { t with ir := w }).Keeps :=
    (memRead_keeps h _ _).bind fun _ _ h => .ok h
  unfold State.fetchWord
  split
  · exact .ok h
  · split
    · split
      · refine .ok (h.setCache ?_)
        split
        · exact h.lru
        · exact Cache.hit_perm h.lru _
      · refine (memRead_keeps h _ _).bind fun w t h => .ok (h.setCache ?_)
        split
        · exact h.lru
        · exact Cache.fill_perm h.lru _ _
    · exact plain

theorem State.shows_inv {t : State} (h : t.Inv) (s : State) (k : Access) (a : Word) (w : Option Word) :
    (s.shows k a w t).Inv := by
  obtain ⟨g, l, o, e⟩ := s.shows_shape t k a w
  rw [e]
  exact h

theorem State.passFetch_inv {s : State} (h : s.Inv) (a : Word) : (s.passFetch a).Inv := by
  unfold State.passFetch
  split
  · exact h
  · split
    · split
      · exact h
      · exact h.setCache (Cache.hit_perm h.lru a)
    · refine State.shows_inv ?_ s _ _ _
      split
      · exact h.setCache (Cache.fill_perm h.lru _ _)
      · exact h
    · exact h

theorem State.refetch_inv {s : State} (h : s.Inv) (a : Word) (n : Nat) : (s.refetch a n).Inv := by
  induction n generalizing s with
  | zero => exact h
  | succ n ih => exact ih (State.passFetch_inv h a)

theorem State.traces_inv {s : State} (h : s.Inv) (i : Instr) : (s.traces i).Inv := by
  have again : (if s.sequenced.irHeld then s else s.refetch s.sequenced.pc (s.busy.hold i)).Inv := by
    split
    · exact h
    · exact State.refetch_inv h _ _
  unfold State.traces
  split
  · exact h
  · dsimp only
    split
    · exact State.passFetch_inv again _
    · exact again

theorem State.ahead_inv {s : State} (h : s.Inv) (i : Instr) : (s.ahead i).Inv := by
  unfold State.ahead
  refine State.traces_inv ?_ i
  exact h

theorem State.survive_inv {s : State} (h : s.Inv) (draw k : Nat) (l : List (Reg × Word)) : (s.survive draw k l).Inv := by
  induction l generalizing s k with
  | nil => exact h
  | cons x l ih =>
    refine ih ?_ _
    split
    · exact (s.put_changes _ _).inv h
    · exact h

theorem State.annul_inv {s : State} (h : s.Inv) (i : Instr) : (s.annul i).Inv :=
  State.survive_inv (s.sequenced_changes.inv h) _ _ _

theorem exec_inv {i : Instr} {s t : State} (h : s.Inv) (e : exec i s = .next t) : t.Inv := (exec_effect e).inv h

/-! ### The outcome of a move -/

theorem State.finish_inv {s t : State} (h : s.Inv) {x : Res Unit} (hx : x.Keeps) (e : s.finish x = .next t) : t.Inv := by
  unfold State.finish at e
  split at e
  · cases e; exact hx _ _ rfl
  · cases e; exact h
  · cases e
  · cases e

theorem State.issue_inv {s t : State} (h : s.Inv) {i : Instr} (e : s.issue i = .next t) : t.Inv := by
  have ahead := State.ahead_inv h i
  unfold State.issue at e
  split at e
  · split at e
    · cases e
    · split at e
      · cases e; exact State.annul_inv ahead i
      · exact exec_inv ahead e
  · split at e
    · cases e
    · exact exec_inv ahead e

theorem State.runMove_inv {s t : State} (h : s.Inv) (e : s.runMove = .next t) : t.Inv := by
  unfold State.runMove at e
  split at e
  · rename_i w u hw
    have hu := State.fetchWord_keeps h _ _ hw
    split at e
    · exact State.issue_inv hu e
    · cases e; exact hu
  · cases e; exact h
  · cases e
  · cases e

theorem State.cpuMove_inv {s t : State} (h : s.Inv) (e : s.cpuMove = .next t) : t.Inv := by
  unfold State.cpuMove at e
  split at e
  · exact State.finish_inv h (State.start_keeps h) e
  · exact State.finish_inv h (State.bootMove_keeps h _) e
  · exact State.runMove_inv h e
  all_goals cases e; exact h

theorem State.serve_keeps {s : State} (h : s.Inv) (v : Nat) : (s.serve v).Keeps := by
  unfold State.serve
  refine Res.Keeps.bind (memRead_keeps ?_ _ _) fun _ t h =>
    (State.push_keeps (t.saveStatus_changes.inv h) _).bind fun _ _ h => .ok h
  exact h

theorem State.enter_inv {s t : State} (h : s.Inv) {v : Nat} (e : s.enter v = .next t) : t.Inv := by
  unfold State.enter at e
  split at e
  · rename_i hs
    cases e
    exact State.serve_keeps h v _ _ hs
  · cases e; exact h
  · cases e
  · cases e

theorem State.cpuTurn_inv {s t : State} (h : s.Inv) (e : s.cpuTurn = .next t) : t.Inv := by
  unfold State.cpuTurn at e
  split at e
  · exact State.enter_inv h e
  · exact State.enter_inv (State.acknowledge_inv h _) e
  · exact State.cpuMove_inv h e

theorem State.agentTurn_inv {s t : State} (h : s.Inv) {i : Input} (e : s.agentTurn i = .next t) : t.Inv := by
  unfold State.agentTurn at e
  split at e
  · rename_i hm
    cases e
    exact State.move_keeps h i _ _ hm
  · cases e; exact h
  · cases e
  · cases e

theorem State.turn_inv {s t : State} (h : s.Inv) (e : s.turn = .next t) : t.Inv := by
  have forwarded : ∀ l : List Input, ({ s with inputs := l } : State).forward.Inv := fun _ => State.forward_inv h
  unfold State.turn at e
  split at e
  · exact State.cpuTurn_inv (State.forward_inv h) e
  · exact State.cpuTurn_inv (forwarded _) e
  · exact State.agentTurn_inv (forwarded _) e

end Sys2Proof.Machine

open Sys2Proof Sys2Proof.Machine

/-- Settles O7: the look of the interrupt controller keeps the invariant, and so does the move of every agent behind it. -/
theorem stepKeepsInvariant : Obligations.StepKeepsInvariant :=
  fun _ _ h e => State.turn_inv (State.sample_inv h) e
end

section
/-! PROOFS. What a result writes to its destination and to the flags (O23), and what a write of IIF and of the vector table
pointers stores (O24). -/

namespace Sys2Proof.Machine

/-! ### Flags (30 R191, R192) -/

/-- `new` is `old` with the flags of a result written: C if it gives one, V, Z, N, UF, the latches only ever set. -/
def Flags.Written (f : Flags) (old new : Word) : Prop :=
  new.getLsbD 0 = f.c.getD (old.getLsbD 0) ∧ new.getLsbD 1 = f.v ∧ new.getLsbD 2 = f.z ∧ new.getLsbD 3 = f.n
    ∧ new.getLsbD 4 = f.uf ∧ new.getLsbD 5 = (old.getLsbD 5 || f.v) ∧ new.getLsbD 6 = (old.getLsbD 6 || f.luf)
    ∧ ∀ b, 7 ≤ b → new.getLsbD b = old.getLsbD b

theorem Flags.apply_written (f : Flags) (st : Word) : f.Written st (f.apply st) := by
  refine ⟨?_, ?_, ?_, ?_, ?_, ?_, ?_, fun b hb => ?_⟩ <;> rw [Flags.apply_getLsbD]
  all_goals try rfl
  simp only [show b ≠ 0 by omega, show b ≠ 1 by omega, show b ≠ 2 by omega, show b ≠ 3 by omega, show b ≠ 4 by omega,
    show b ≠ 5 by omega, show b ≠ 6 by omega, if_false]

/-- flags_enabled(dst): R0–R11 always, another register but ST when SC = 1 (30 R192). -/
theorem State.flagsEnabled_iff (s : State) (d : Reg) :
    s.flagsEnabled d = true ↔ (∃ n, d = .r n) ∨ (d ≠ .st ∧ s.st.getLsbD 15 = true) := by
  cases d <;> simp [State.flagsEnabled, State.setCondition, State.stBit]

/-! ### What a register holds after a write -/

theorem State.put_st_of_ne (s : State) {d : Reg} (h : d ≠ .st) (v : Word) : (s.put d v).st = s.st := by
  cases d <;> first | rfl | exact absurd rfl h

/-- An integer written to R0–R11 keeps the exponent byte. -/
theorem State.put_r (s : State) (n : FReg) (v : Word) : (s.put (.r n) v).r[n] = (s.r[n]).extractLsb' 32 8 ++ v := by
  simp [State.put, withLow]

/-- A register but ST, IIF and DP holds the written value. -/
theorem State.stored_put_same (s : State) {d : Reg} (v : Word) (hst : d ≠ .st) (hiif : d ≠ .iif) (hdp : d ≠ .dp) :
    ((s.put d v).stored d).setWidth 32 = v := by
  have wide : (v.setWidth 40).setWidth 32 = v := by simp
  cases d with
  | r n =>
    rw [State.stored, State.put_r]
    refine BitVec.eq_of_getLsbD_eq fun i hi => ?_
    simp only [BitVec.getLsbD_setWidth, BitVec.getLsbD_append, hi, decide_true, if_true, Bool.true_and]
  | ar n =>
    have held : (s.put (.ar n) v).ar[n] = v := by simp [State.put]
    rw [State.stored, held]
    exact wide
  | st => exact absurd rfl hst
  | iif => exact absurd rfl hiif
  | dp => exact absurd rfl hdp
  | _ => exact wide

/-- ST after an integer result to another register: the flags where they are enabled, else as it was. -/
theorem State.result_st (s : State) {d : Reg} (h : d ≠ .st) (x : Word × Flags) :
    (s.result d x).st = if s.flagsEnabled d then x.2.apply s.st else s.st := by
  unfold State.result
  rw [State.put_st_of_ne _ h]
  split <;> rfl

theorem State.result_r (s : State) (n : FReg) (x : Word × Flags) :
    (s.result (.r n) x).r[n] = (s.r[n]).extractLsb' 32 8 ++ x.1 := State.put_r _ n x.1

/-! ### IIF after a write (10 R44, 60 R657) -/

/-- The bits of IIF after a write: the four FLAG bits by `storedFlag`, the NMI bit as it was, bits
23–17 0, the rest as written. -/
theorem State.writeIif_getLsbD (s : State) (v : Word) (j : Nat) :
    (s.writeIif v).iif.getLsbD j =
      if j = 14 then storedFlag v 3 else if j = 10 then storedFlag v 2 else if j = 6 then storedFlag v 1
      else if j = 2 then storedFlag v 0
      else if (0xFF00FFFF : Word).getLsbD j then v.getLsbD j else (s.iif &&& 0x00010000).getLsbD j := by
  simp only [State.writeIif]
  rw [putBit_getLsbD _ _ _ _ (by decide), putBit_getLsbD _ _ _ _ (by decide), putBit_getLsbD _ _ _ _ (by decide),
    putBit_getLsbD _ _ _ _ (by decide), merge_getLsbD]

/-- FLAGx is stored by `storedFlag`. -/
theorem State.writeIif_flag (s : State) (v : Word) (x : Fin 4) :
    (s.writeIif v).iif.getLsbD (4 * x.val + 2) = storedFlag v x.val := by
  rw [State.writeIif_getLsbD]
  fin_cases x <;> rfl

/-- Every writable bit but a FLAG is stored. -/
theorem State.writeIif_stored (s : State) (v : Word) {j : Nat} (hj : (0xFF00FFFF : Word).getLsbD j = true)
    (hf : j ∉ [2, 6, 10, 14]) : (s.writeIif v).iif.getLsbD j = v.getLsbD j := by
  simp only [List.mem_cons, List.not_mem_nil, or_false, not_or] at hf
  obtain ⟨h2, h6, h10, h14⟩ := hf
  rw [State.writeIif_getLsbD, if_neg h14, if_neg h10, if_neg h6, if_neg h2, if_pos hj]

/-- A bit that is not writable is kept where it is the NMI bit, else 0. -/
theorem State.writeIif_kept (s : State) (v : Word) {j : Nat} (hj : 16 ≤ j) (hn : j ≤ 23) :
    (s.writeIif v).iif.getLsbD j = (s.iif &&& 0x00010000).getLsbD j := by
  have clear : ∀ k : Fin 24, 16 ≤ k.val → (0xFF00FFFF : Word).getLsbD k = false := by decide
  rw [State.writeIif_getLsbD, if_neg (by omega), if_neg (by omega), if_neg (by omega), if_neg (by omega),
    clear ⟨j, by omega⟩ hj, if_neg (by decide)]

theorem State.writeIif_func (s : State) (v : Word) (x : Fin 4) : (s.writeIif v).iiofFunc x = v.getLsbD (4 * x.val) :=
  s.writeIif_stored v (by revert x; decide) (by revert x; decide)

theorem State.writeIif_type (s : State) (v : Word) (x : Fin 4) : (s.writeIif v).iiofType x = v.getLsbD (4 * x.val + 1) :=
  s.writeIif_stored v (by revert x; decide) (by revert x; decide)

/-- The FLAG of a pin whose FUNC and TYPE differ, an output or an edge pin, is stored. -/
theorem storedFlag_of_ne {v : Word} {x : Nat} (h : v.getLsbD (4 * x) ≠ v.getLsbD (4 * x + 1)) :
    storedFlag v x = v.getLsbD (4 * x + 2) := by
  simp [storedFlag, h]

theorem storedFlag_of_eq {v : Word} {x : Nat} (h : v.getLsbD (4 * x) = v.getLsbD (4 * x + 1)) : storedFlag v x = false := by
  simp [storedFlag, h]

/-- FLAGx as IIF reads. -/
theorem State.get_iif_flag (s : State) (x : Fin 4) : (s.get .iif).getLsbD (4 * x.val + 2) = s.iiofFlag x := by
  show s.readIif.getLsbD _ = _
  simp only [State.readIif]
  rw [putBit_getLsbD _ _ _ _ (by decide), putBit_getLsbD _ _ _ _ (by decide), putBit_getLsbD _ _ _ _ (by decide),
    putBit_getLsbD _ _ _ _ (by decide)]
  fin_cases x <;> rfl

/-- The FLAG of an output or edge pin reads as stored. -/
theorem State.iiofFlag_of_ne (s : State) {x : Fin 4} (h : s.iiofFunc x ≠ s.iiofType x) :
    s.iiofFlag x = s.iif.getLsbD (4 * x.val + 2) := by
  unfold State.iiofFlag
  split
  · rename_i hf ht
    exact absurd (hf.trans ht.symm) h
  · rename_i hf ht
    exact absurd (hf.trans ht.symm) h
  · rfl

/-- The FLAG of an input pin reads as the line. -/
theorem State.iiofFlag_input (s : State) {x : Fin 4} (hf : s.iiofFunc x = false) (ht : s.iiofType x = false) :
    s.iiofFlag x = s.iiofLevel x := by
  simp [State.iiofFlag, hf, ht]

/-- The line of a pin that is no output: the inverted request of a connected device, else the pin. -/
theorem State.iiofLevel_of_not_output (s : State) {x : Fin 4} (h : s.iiofOutput x = false) :
    s.iiofLevel x = if connectedTo s.dev.rc s.pins.core2 (iiofDevice x) = true then !s.dev.request (iiofDevice x)
      else s.pins.iiof.getLsbD x.val := by
  simp [State.iiofLevel, h]

/-- Four bits, one for each pin. -/
theorem fourPins_getLsbD (p : Nat → Bool) (x : Fin 4) :
    (BitVec.ofBool (p 3) ++ BitVec.ofBool (p 2) ++ BitVec.ofBool (p 1) ++ BitVec.ofBool (p 0)).getLsbD x.val = p x.val := by
  have bits : ∀ a b c d : Bool, (BitVec.ofBool d ++ BitVec.ofBool c ++ BitVec.ofBool b ++ BitVec.ofBool a).getLsbD 0 = a
      ∧ (BitVec.ofBool d ++ BitVec.ofBool c ++ BitVec.ofBool b ++ BitVec.ofBool a).getLsbD 1 = b
      ∧ (BitVec.ofBool d ++ BitVec.ofBool c ++ BitVec.ofBool b ++ BitVec.ofBool a).getLsbD 2 = c
      ∧ (BitVec.ofBool d ++ BitVec.ofBool c ++ BitVec.ofBool b ++ BitVec.ofBool a).getLsbD 3 = d := by decide
  obtain ⟨h0, h1, h2, h3⟩ := bits (p 0) (p 1) (p 2) (p 3)
  fin_cases x <;> assumption

/-- The level pins whose FLAG is written as `b`. -/
theorem levelFlags_getLsbD (v : Word) (b : Bool) (x : Fin 4) :
    (levelFlags v b).getLsbD x.val
      = (v.getLsbD (4 * x.val) && v.getLsbD (4 * x.val + 1) && v.getLsbD (4 * x.val + 2) == b) :=
  fourPins_getLsbD (fun n => v.getLsbD (4 * n) && v.getLsbD (4 * n + 1) && v.getLsbD (4 * n + 2) == b) x

end Sys2Proof.Machine

open Sys2Proof Sys2Proof.Machine

/-- Settles O24: the bits of IIF after `State.writeIif`, pin by pin. -/
theorem controlRegisterWrites : Obligations.ControlRegisterWrites := by
  intro s v
  refine ⟨fun x => ?_, ?_, fun b hl hh => ?_, fun b hb => ?_, rfl, fun x => by cases x <;> rfl⟩
  · have enable : ∀ x : Fin 4, (0xFF00FFFF : Word).getLsbD (4 * x.val + 3) = true ∧ 4 * x.val + 3 ∉ [2, 6, 10, 14] := by
      decide
    have func := s.writeIif_func v x
    have type := s.writeIif_type v x
    have flag := s.writeIif_flag v x
    refine ⟨func, type, s.writeIif_stored v (enable x).1 (enable x).2, fun hne => ⟨?_, ?_⟩, fun he => ?_,
      fun hf ht hc => ?_, ?_, ?_⟩
    · exact flag.trans (storedFlag_of_ne hne)
    · refine (State.get_iif_flag _ x).trans ((State.iiofFlag_of_ne _ ?_).trans (flag.trans (storedFlag_of_ne hne)))
      exact fun e => hne (func.symm.trans (e.trans type))
    · exact flag.trans (storedFlag_of_eq he)
    · have output : (s.writeIif v).iiofOutput x = false := by simp [State.iiofOutput, type, ht]
      refine (State.get_iif_flag _ x).trans ((State.iiofFlag_input _ (func.trans hf) (type.trans ht)).trans ?_)
      rw [State.iiofLevel_of_not_output _ output]
      exact if_neg (by simp [hc])
    · show (s.raisePending ||| levelFlags v true).getLsbD x.val = _
      rw [BitVec.getLsbD_or, levelFlags_getLsbD, beq_true]
    · show (s.ackPending ||| levelFlags v false).getLsbD x.val = _
      rw [BitVec.getLsbD_or, levelFlags_getLsbD, beq_false]
  · exact (s.writeIif_kept v (by decide) (by decide)).trans (by simp)
  · have clear : ∀ k : Fin 24, 17 ≤ k.val → (0x00010000 : Word).getLsbD k = false := by decide
    refine (s.writeIif_kept v (by omega) hh).trans ?_
    rw [BitVec.getLsbD_and, clear ⟨b, by omega⟩ hl, Bool.and_false]
  · by_cases hn : b < 32
    · have high : ∀ k : Fin 32, 24 ≤ k.val → (0xFF00FFFF : Word).getLsbD k = true := by decide
      exact s.writeIif_stored v (high ⟨b, hn⟩ hb) (by simp; omega)
    · exact (BitVec.getLsbD_of_ge _ _ (by omega)).trans (BitVec.getLsbD_of_ge _ _ (by omega)).symm

/-- Settles O23: the flags of `Flags.apply` where `State.flagsEnabled` holds, and the write of the destination behind
them. -/
theorem integerResultWritten : Obligations.IntegerResultWritten := by
  refine ⟨fun u f => ⟨f.apply u.st, f.apply_written u.st, rfl, fun n v => rfl⟩, fun u d v f => ?_⟩
  have enabled := u.flagsEnabled_iff d
  refine ⟨fun on => ?_, fun off hst => ?_, ?_, ?_, fun hst hiif hdp => State.stored_put_same _ v hst hiif hdp, ?_⟩
  · have hst : d ≠ .st := by
      rintro rfl
      simp at on
    rw [State.result_st u hst, if_pos (enabled.2 on)]
    exact f.apply_written u.st
  · rw [State.result_st u hst, if_neg (mt enabled.1 off)]
  · rintro rfl
    rfl
  · rintro n rfl
    exact u.result_r n (v, f)
  · rintro rfl
    rfl
end

section
/-! PROOFS. Which interrupt is taken (O57): the first candidate of an ascending list of vectors, at an interrupt point, and the
table of the vectors. -/

namespace Sys2Proof.Machine

/-! ### The candidate of highest priority (60 R652, R655) -/

/-- In an ascending list the first element with a property is the smallest one. -/
theorem find?_eq_some_iff_least {l : List Nat} (hl : l.Pairwise (· < ·)) {p : Nat → Bool} {v : Nat} :
    l.find? p = some v ↔ v ∈ l ∧ p v = true ∧ ∀ w ∈ l, w < v → p w = false := by
  induction l with
  | nil => simp
  | cons a l ih =>
    obtain ⟨ha, hl⟩ := List.pairwise_cons.1 hl
    cases hp : p a with
    | true =>
      rw [List.find?_cons_of_pos hp]
      constructor
      · rintro ⟨rfl⟩
        refine ⟨List.mem_cons_self, hp, fun w hw hlt => ?_⟩
        rcases List.mem_cons.1 hw with rfl | hw
        · exact absurd hlt (Nat.lt_irrefl _)
        · exact absurd (ha w hw) (by omega)
      · rintro ⟨hv, -, least⟩
        rcases List.mem_cons.1 hv with rfl | hv
        · rfl
        · rw [least a List.mem_cons_self (ha v hv)] at hp
          cases hp
    | false =>
      rw [List.find?_cons_of_neg (by simp [hp]), ih hl]
      constructor
      · rintro ⟨hv, hpv, least⟩
        refine ⟨List.mem_cons_of_mem _ hv, hpv, fun w hw hlt => ?_⟩
        rcases List.mem_cons.1 hw with rfl | hw
        · exact hp
        · exact least w hw hlt
      · rintro ⟨hv, hpv, least⟩
        rcases List.mem_cons.1 hv with rfl | hv
        · rw [hp] at hpv
          cases hpv
        · exact ⟨hv, hpv, fun w hw => least w (List.mem_cons_of_mem _ hw)⟩

theorem vectors_ascending : vectors.Pairwise (· < ·) := by decide

/-- The vectors that exist (60 R651). -/
theorem mem_vectors_iff (v : Nat) : v ∈ vectors ↔ 1 ≤ v ∧ v ≤ 6 ∨ 0x0D ≤ v ∧ v ≤ 0x2B := by
  simp only [vectors, List.mem_append, List.mem_map, List.mem_range]
  constructor
  · rintro (⟨n, hn, rfl⟩ | ⟨n, hn, rfl⟩) <;> omega
  · rintro (⟨hl, hh⟩ | ⟨hl, hh⟩)
    · exact .inl ⟨v - 1, by omega, by omega⟩
    · exact .inr ⟨v - 0x0D, by omega, by omega⟩

theorem State.candidate_eq_some (s : State) (v : Nat) :
    s.candidate vectors = some v ↔ v ∈ vectors ∧ s.pending v = true ∧ s.enabled v = true
      ∧ ∀ w ∈ vectors, w < v → (s.pending w && s.enabled w) = false := by
  rw [State.candidate, find?_eq_some_iff_least vectors_ascending, Bool.and_eq_true, and_assoc]

theorem State.candidate_eq_none (s : State) :
    s.candidate vectors = none ↔ ∀ v ∈ vectors, (s.pending v && s.enabled v) = false := by
  simp only [State.candidate, List.find?_eq_none, Bool.not_eq_true]

/-! ### Interrupt points (60 R654, R663) -/

theorem State.atPoint_iff (s : State) :
    s.atPoint = true ↔ s.delay = none ∧ s.waiting = none ∧ (s.repeatMode && s.repeatSingle) = false := by
  simp only [State.atPoint, Bool.and_eq_true, Option.isNone_iff_eq_none, Bool.not_eq_true', and_assoc]

theorem State.taken_of_listening {s : State} (h : s.listening = true) : s.taken = s.candidate vectors := if_pos h

theorem State.taken_of_not_listening {s : State} (h : s.listening = false) : s.taken = none := if_neg (by simp [h])

theorem State.listening_running {s : State} (h : s.phase = .running) : s.listening = s.atPoint := by
  simp [State.listening, h]

theorem State.listening_idle {s : State} (h : s.phase = .idle) : s.listening = s.entering.isNone := by
  simp [State.listening, h]

/-- With GIE = 0 only NMI is enabled. -/
theorem State.eq_one_of_enabled {s : State} {v : Nat} (h : s.enabled v = true) (hg : s.st.getLsbD 13 = false) : v = 1 := by
  by_contra hv
  simp only [State.enabled, if_neg hv, State.gie, State.stBit, hg, Bool.false_and, Bool.false_eq_true] at h

/-- The interrupt a running core takes. -/
theorem State.taken_running {s : State} (h : s.phase = .running) {v : Nat} (ht : s.taken = some v) :
    s.atPoint = true ∧ s.candidate vectors = some v := by
  cases hp : s.atPoint with
  | true =>
    rw [State.taken_of_listening ((State.listening_running h).trans hp)] at ht
    exact ⟨rfl, ht⟩
  | false =>
    rw [State.taken_of_not_listening ((State.listening_running h).trans hp)] at ht
    cases ht

/-! ### The table of the vectors (60 R651; 10 R43, R44; 65 R512) -/

/-- A stored flag, or a request that the DMA took and the CPU shares. -/
def State.recorded (s : State) (b : Nat) : Bool := s.iif.getLsbD b || s.claimed.getLsbD b

/-- An interrupt that a bit of IIF records is pending by its flag or its claim. -/
theorem State.pending_of_flagBit (s : State) {v b : Nat} (h : flagBit v = some b) :
    s.pending v = (s.flagged v || s.claimed.getLsbD b) := by
  simp [State.pending, h]

/-- A port condition is pending by its level. -/
theorem State.pending_of_no_flagBit (s : State) {v : Nat} (h : flagBit v = none) : s.pending v = s.flagged v := by
  simp [State.pending, h]

/-- The interrupts of the DMA channels and of timer 1. -/
theorem State.internal_vector (s : State) {n : Nat} (hn : n < 7) :
    s.pending (0x25 + n) = s.recorded (25 + n)
      ∧ s.enabled (0x25 + n) = (s.st.getLsbD 13 && s.iie.getLsbD (25 + n)) := by
  have bit : flagBit (0x25 + n) = some (25 + n) := by
    unfold flagBit
    rw [if_neg (by omega), if_neg (by omega), if_neg (by omega), if_pos (by omega)]
    exact congrArg some (by omega)
  have index : 0x25 + n - 0x25 + 25 = 25 + n := by omega
  refine ⟨?_, ?_⟩
  · rw [State.pending_of_flagBit s bit, State.recorded]
    unfold State.flagged
    rw [if_neg (by omega), if_neg (by omega), if_neg (by omega), if_neg (by omega), if_pos (by omega), index]
  · unfold State.enabled
    rw [if_neg (by omega), if_neg (by omega), if_neg (by omega), if_neg (by omega), index]
    rfl

theorem Port.icRdy_eq (p : Port) : p.icRdy = decide (p.inFifo ≠ []) := by
  unfold Port.icRdy
  cases p.inFifo <;> simp

theorem Port.ocEmpty_eq (p : Port) : p.ocEmpty = decide (p.outFifo = []) := by
  unfold Port.ocEmpty
  cases p.outFifo <;> simp

/-- The interrupts of port `k`. -/
theorem State.port_vector (s : State) (k : Fin 6) {v j : Nat} (hj : j < 4) (hv : v = 0x0D + 4 * k.val + j) :
    s.pending v = (s.dev.ports[k]).condition j
      ∧ s.enabled v = (s.st.getLsbD 13 && s.iie.getLsbD (4 * k.val + 1 + j)) := by
  subst hv
  have bit : flagBit (0x0D + 4 * k.val + j) = none := by
    unfold flagBit
    rw [if_neg (by omega), if_neg (by omega), if_neg (by omega), if_neg (by omega)]
  have port : Fin.ofNat 6 ((0x0D + 4 * k.val + j - 0x0D) / 4) = k := Fin.ext (by simp only [Fin.ofNat]; omega)
  refine ⟨?_, ?_⟩
  · rw [State.pending_of_no_flagBit s bit]
    unfold State.flagged
    rw [if_neg (by omega), if_neg (by omega), if_neg (by omega), if_pos (by omega),
      show (0x0D + 4 * k.val + j - 0x0D) % 4 = j by omega]
    exact congrArg (fun i : Fin 6 => (s.dev.ports[i]).condition j) port
  · unfold State.enabled
    rw [if_neg (by omega), if_neg (by omega), if_neg (by omega), if_pos (by omega),
      show 0x0D + 4 * k.val + j - 12 = 4 * k.val + 1 + j by omega]
    rfl

/-- The interrupts of the IIOF pins. -/
theorem State.pin_vector (s : State) (x : Fin 4) :
    s.pending (3 + x.val) = (s.iiofFunc x && s.iiofFlag x || s.claimed.getLsbD (4 * x.val + 2))
      ∧ s.enabled (3 + x.val) = (s.st.getLsbD 13 && s.iif.getLsbD (4 * x.val + 3)) := by
  have bit : flagBit (3 + x.val) = some (4 * x.val + 2) := by
    unfold flagBit
    rw [if_neg (by omega), if_neg (by omega), if_pos (by omega)]
    exact congrArg some (by omega)
  have pin : Fin.ofNat 4 (3 + x.val - 3) = x := Fin.ext (by simp only [Fin.ofNat]; omega)
  refine ⟨?_, ?_⟩
  · rw [State.pending_of_flagBit s bit]
    unfold State.flagged
    rw [if_neg (by omega), if_neg (by omega), if_pos (by omega), pin]
  · unfold State.enabled
    rw [if_neg (by omega), if_neg (by omega), if_pos (by omega), show 3 + x.val - 3 = x.val by omega]
    rfl

/-- The FLAG of a level pin: 1 while the line is low or software has just raised it, 0 behind an acknowledge (60 R657). -/
theorem State.iiofFlag_level (s : State) {x : Fin 4} (hf : s.iiofFunc x = true) (ht : s.iiofType x = true) :
    s.iiofFlag x = ((!s.iiofLevel x || s.levelRaise.getLsbD x.val) && !s.levelAck.getLsbD x.val) := by
  simp [State.iiofFlag, hf, ht]

end Sys2Proof.Machine

open Sys2Proof Sys2Proof.Machine

/-- Settles O57: the least candidate at an interrupt point, and the table vector by vector. -/
theorem interruptPriority : Obligations.InterruptPriority := by
  refine ⟨fun s hs => ⟨fun v ht => ?_, fun ht hd hw hr => ?_⟩, fun s => ⟨fun hp => ?_, fun hp he => ?_, fun hp he => ?_⟩,
    mem_vectors_iff, fun s => ?_⟩
  · obtain ⟨point, least⟩ := State.taken_running hs ht
    obtain ⟨hd, hw, hr⟩ := s.atPoint_iff.1 point
    obtain ⟨hv, hpend, hen, hleast⟩ := (s.candidate_eq_some v).1 least
    exact ⟨hv, hpend, hen, hleast, hd, hw, hr, State.eq_one_of_enabled hen⟩
  · have point := s.atPoint_iff.2 ⟨hd, hw, hr⟩
    rw [State.taken_of_listening ((State.listening_running hs).trans point)] at ht
    exact s.candidate_eq_none.1 ht
  · refine State.taken_of_not_listening ?_
    rcases hp with hp | hp <;> simp [State.listening, hp]
  · refine State.taken_of_not_listening ((State.listening_idle hp).trans ?_)
    rwa [Option.isNone_eq_false_iff, Option.isSome_iff_ne_none]
  · rw [State.taken_of_listening ((State.listening_idle hp).trans (by rw [he]; rfl))]
    exact ⟨s.candidate_eq_some, s.candidate_eq_none⟩
  · refine ⟨⟨rfl, rfl⟩, ⟨rfl, rfl⟩, fun n hn => s.internal_vector hn, fun k => ?_, fun x => ?_⟩
    · refine ⟨(s.port_vector k (j := 0) (by decide) rfl).1, ?_, (s.port_vector k (j := 2) (by decide) (by omega)).1, ?_,
        fun j hj => (s.port_vector k hj rfl).2⟩
      · exact (s.port_vector k (j := 1) (by decide) (by omega)).1.trans (Port.icRdy_eq _)
      · exact (s.port_vector k (j := 3) (by decide) (by omega)).1.trans (Port.ocEmpty_eq _)
    · obtain ⟨pending, enabled⟩ := s.pin_vector x
      refine ⟨enabled, fun hf => ?_, fun hf ht => ?_, fun hf ht => ?_⟩
      · have func : s.iiofFunc x = false := hf
        rw [pending, func, Bool.false_and, Bool.false_or]
      · have func : s.iiofFunc x = true := hf
        have type : s.iiofType x = false := ht
        rw [pending, func, Bool.true_and, State.iiofFlag_of_ne s (by simp [func, type])]
      · have func : s.iiofFunc x = true := hf
        have type : s.iiofType x = true := ht
        rw [pending, func, Bool.true_and, State.iiofFlag_level s func type,
          State.iiofLevel_of_not_output s (by simp [State.iiofOutput, func])]
end

section
/-! PROOFS. Which addresses take a cycle on an external bus (20 R104–R106, R121), for the lock signals (O51) and the fetches
that leave no trace (O8). -/

namespace Sys2Proof.Machine

/-- The peripheral bus stands inside the core. -/
theorem peripheralRegion_external (n : Nat) : (peripheralRegion n).external = false := by
  unfold peripheralRegion
  dsimp only
  split
  · split
    · rfl
    · split <;> rfl
  · rfl
  · rfl
  · rfl
  · split <;> rfl

/-- The local bus selects a strobe in its ranges that are not reserved. -/
theorem localRegion_external (n : Nat) :
    (localRegion n).external = localRanges.any fun r => decide (r.1 ≤ n) && decide (n ≤ r.2) := by
  rw [Bool.eq_iff_iff]
  simp only [localRegion, apply_ite Region.external]
  simp [Region.external, localRanges]
  omega

/-- An address takes a cycle on an external bus where it selects a strobe. -/
theorem region_external (romen : Bool) (a : Word) : (region romen a).external = selectsStrobe romen a := by
  have inner : 0x100000 ≤ a.toNat → a.toNat < 0x300000 →
      localRanges.any (fun r => decide (r.1 ≤ a.toNat) && decide (a.toNat ≤ r.2)) = false := fun h h' => by
    simp [localRanges]
    omega
  unfold region selectsStrobe
  dsimp only
  split
  · rfl
  · split
    · rw [if_neg (by omega), inner (by omega) (by omega)]
      rfl
    · split
      · cases romen
        · rfl
        · rw [if_pos rfl]
          split <;> rfl
      · split
        · rw [peripheralRegion_external, inner (by omega) (by omega)]
        · split
          · rw [inner (by omega) (by omega)]
            rfl
          · exact localRegion_external _

theorem State.onBus_eq (s : State) (a : Word) : s.onBus a = selectsStrobe s.pins.romen a := region_external _ _

/-- The on-chip RAM, the peripheral bus and the reserved addresses around them select no strobe (20 R104). -/
theorem selectsStrobe_onChip (romen : Bool) {a : Word} (h : 0x100000 ≤ a.toNat) (h' : a.toNat < 0x300000) :
    selectsStrobe romen a = false := by
  unfold selectsStrobe
  rw [if_neg (by omega), if_neg (by omega)]
  simp [localRanges]
  omega

theorem State.onBus_onChip (s : State) {a : Word} (h : 0x100000 ≤ a.toNat) (h' : a.toNat < 0x300000) : s.onBus a = false :=
  (s.onBus_eq a).trans (selectsStrobe_onChip _ h h')

end Sys2Proof.Machine
end

section
/-! PROOFS. Stores: the memory frame of every instruction (O15), the word a store leaves (O28), and accesses that wait (O29). -/

namespace Sys2Proof.Machine

theorem exec_sti (src : Reg) (m : Mem) (s : State) :
    exec (.sti src m) s = s.run fun t => t.store .plain m (t.get src) := rfl

theorem exec_ldi_mem (dst : Reg) (m : Mem) (s : State) :
    exec (.ldi dst (.mem m)) s = s.run fun t => t.unary dst (t.sourceInt (.mem m)) plainFlags := rfl

/-- A meaning whose effect waits leaves the state as it was, marked. -/
theorem State.run_of_wait {s : State} {f : State → Res Unit} {w : Wait} (h : f s.sequenced = .wait w) :
    s.run f = .next { s with waiting := some w } := by
  simp only [State.run, State.finish, h]

/-- A write-back does not change whether the global bus is ready. -/
theorem State.memUpdate_globalReady (s : State) (m : Mem) (a : Word) (w : Bool) :
    globalReady (s.memUpdate m) a w = globalReady s a w := by
  simp [globalReady, State.populated]

/-- A word of memory where a write takes effect: on-chip RAM, or global memory that is ready and that the board has. -/
def State.Storable (s : State) (a : Word) : Prop :=
  region s.pins.romen a = .ram
    ∨ region s.pins.romen a = .global ∧ globalReady s a true = true ∧ s.populated a = true

/-- A write there finishes, and of memory it changes that word. -/
theorem memWrite_storable {s : State} {a : Word} (h : s.Storable a) (k : Access) (v : Word) :
    ∃ t, memWrite k a v s = .ok () t ∧ t.mem = Memory.writeWord s.mem a v := by
  rcases h with ram | ⟨global, ready, there⟩
  · exact ⟨_, memWrite_ram ram k v, rfl⟩
  · exact ⟨_, memWrite_global global ready there k v, by simp⟩

/-- A store that finishes there writes the word, and nothing else of memory. -/
theorem exec_sti_mem {s u : State} {src : Reg} {m : Mem}
    (h : (s.sequenced.memUpdate m).Storable (s.sequenced.memAddr m)) (e : exec (.sti src m) s = .next u) :
    u.mem = Memory.writeWord s.mem (s.sequenced.memAddr m) (s.sequenced.get src) := by
  obtain ⟨t, written, mem⟩ := memWrite_storable h .plain (s.sequenced.get src)
  rw [exec_sti, State.run_of_ok (show s.sequenced.store .plain m (s.sequenced.get src) = .ok () t from written)] at e
  cases e
  simpa using mem

end Sys2Proof.Machine

open Sys2Proof Sys2Proof.Machine

/-- Settles O15: the memory words in the effect of an instruction. -/
theorem memoryFrame : Obligations.MemoryFrame :=
  fun _ _ _ k h wf hk => ((exec_effect h).memory wf).2 k hk

/-- Settles O28: what the memory laws say of the word that a store writes. -/
theorem storedWordReadsBack : Obligations.StoredWordReadsBack := by
  intro s u src m wf place e
  have storable : (s.sequenced.memUpdate m).Storable (s.sequenced.memAddr m) := by
    simpa [State.Storable, State.memUpdate_globalReady, State.populated] using place
  rw [exec_sti_mem storable e]
  exact ⟨Memory.readWord_writeWord wf _ _, fun a ha => Memory.readWord_writeWord_ne wf ha _⟩

/-- Settles O29: an access that waits makes the whole meaning wait. -/
theorem waitingAccess : Obligations.WaitingAccess := by
  intro s w m
  refine ⟨fun h dst => ?_, fun src h => ?_⟩
  · rw [exec_ldi_mem]
    refine State.run_of_wait ?_
    have fetched : s.sequenced.fetch .plain m = .wait w := h
    simp [State.unary, Res.andThen, State.sourceInt, State.source, fetched]
  · rw [exec_sti]
    exact State.run_of_wait h
end

section
/-! PROOFS. A step of the core is the execution of the fetched instruction (O8): the interrupt controller leaves the core's own
state alone, and fetches on the chip leave no trace. -/

namespace Sys2Proof.Machine

/-! ### The interrupt controller in front of the core's move -/

@[simp] theorem State.clearIiof_phase (s : State) (x : Fin 4) : (s.clearIiof x).phase = s.phase := by
  simp [State.clearIiof, apply_ite State.phase]

@[simp] theorem State.clearIiof_entering (s : State) (x : Fin 4) : (s.clearIiof x).entering = s.entering := by
  simp [State.clearIiof, apply_ite State.entering]

@[simp] theorem State.clearTimer_phase (s : State) (n : Fin 2) : (s.clearTimer n).phase = s.phase := by
  simp [State.clearTimer, apply_ite State.phase]

@[simp] theorem State.clearTimer_entering (s : State) (n : Fin 2) : (s.clearTimer n).entering = s.entering := by
  simp [State.clearTimer, apply_ite State.entering]

/-- Forwarding requests to the DMA leaves what the core is doing alone. -/
theorem State.forward_phase (s : State) : s.forward.phase = s.phase := by
  unfold State.forward
  split
  · rfl
  · simp

theorem State.forward_entering (s : State) : s.forward.entering = s.entering := by
  unfold State.forward
  split
  · rfl
  · simp

/-- Only IDLE2 is ended by the look at the inputs. -/
theorem State.sample_of_running {s : State} (h : s.phase = .running) : s.sample = s.look := by
  simp [State.sample, h]

/-- Where it is the CPU's turn, a step is that turn. -/
theorem step_of_cpu {s : State} {rest : List Input} (h : s.phase = .running)
    (turn : s.inputs = [] ∧ rest = [] ∨ s.inputs = .cpu :: rest) :
    step s = ({ s.sample with inputs := rest } : State).forward.cpuTurn := by
  unfold step
  rw [State.sample_of_running h]
  have inputs : s.look.inputs = s.inputs := rfl
  unfold State.turn
  rcases turn with ⟨empty, rfl⟩ | own
  · rw [inputs, empty]
    exact congrArg (fun l => ({ s.look with inputs := l } : State).forward.cpuTurn) (inputs.trans empty)
  · rw [inputs, own]

/-- A core that runs and enters no interrupt issues the instruction it fetches. -/
theorem State.cpuTurn_of_running {x t : State} {w : Word} {i : Instr} (phase : x.phase = .running)
    (entering : x.entering = none) (taken : x.taken = none) (fetched : x.fetchWord = .ok w t) (decoded : decode w = .ok i) :
    x.cpuTurn = t.issue i := by
  simp only [State.cpuTurn, entering, taken, State.cpuMove, phase, State.runMove, fetched, decoded]

/-! ### The fetch -/

/-- Outside RPTS a word in on-chip RAM is fetched as it stands there. -/
theorem State.fetchWord_ram {s : State} (h : region s.pins.romen s.pc = .ram)
    (free : (s.repeatMode && s.repeatSingle && s.irHeld) = false) :
    s.fetchWord = .ok (Memory.readWord s.mem s.pc) { s with ir := Memory.readWord s.mem s.pc } := by
  have inner : s.onBus s.pc = false := by simp [State.onBus, h, Region.external]
  simp [State.fetchWord, free, inner, memRead_ram h]

/-! ### The traces of the fetches behind an instruction -/

theorem State.passFetch_inner {s : State} {a : Word} (h : s.onBus a = false) : s.passFetch a = s := by
  simp [State.passFetch, h]

theorem State.refetch_inner {s : State} {a : Word} (h : s.onBus a = false) (n : Nat) : s.refetch a n = s := by
  induction n with
  | zero => rfl
  | succ n ih => rw [State.refetch, State.passFetch_inner h, ih]

/-- All the trace an instruction leaves is the note of its register conflicts, where no fetch is made again or only on the chip,
and none is dropped or only on the chip. -/
theorem State.traces_inner {s : State} {i : Instr} (again : s.busy.hold i = 0 ∨ s.onBus s.sequenced.pc = false)
    (dropped : standardFlow i = false ∨ s.onBus (s.pc + 1) = false) : ∃ b, s.traces i = { s with busy := b } := by
  have held : (if s.sequenced.irHeld then s else s.refetch s.sequenced.pc (s.busy.hold i)) = s := by
    split
    · rfl
    · rcases again with never | inner
      · rw [never, State.refetch]
      · exact State.refetch_inner inner _
  unfold State.traces
  split
  · exact ⟨_, rfl⟩
  · rw [held]
    dsimp only
    split
    · rename_i flow
      rw [State.passFetch_inner (dropped.resolve_left (by simp [flow]))]
      exact ⟨_, rfl⟩
    · exact ⟨_, rfl⟩

/-- The program counter after the fetch of an instruction in no delay slot (43 R370). -/
theorem State.advance_pc (s : State) : s.advance.pc =
    if s.repeatMode then
      if s.repeatSingle then (if (s.rc - 1).msb then s.pc + 1 else s.pc)
      else if s.pc = s.re then (if (s.rc - 1).msb then s.pc + 1 else s.rs) else s.pc + 1
    else s.pc + 1 := by
  simp only [State.advance, State.advanceSingle, State.advanceBlock, apply_ite State.pc]

/-- The program counter after the fetch of a delay slot (43 R380). -/
theorem State.advanceSlot_pc (s : State) (d : Delay) :
    (s.advanceSlot d).pc = if d.left = .one then d.dest else s.pc + 1 := by
  unfold State.advanceSlot
  cases d.left <;> rfl

/-- A register loaded ahead plays no part in sequencing. -/
theorem State.sequenced_pc_early (s : State) (e : Option (Reg × Word)) :
    ({ s with early := e } : State).sequenced.pc = s.sequenced.pc := by
  unfold State.sequenced
  dsimp only
  cases s.delay with
  | none => rw [State.advance_pc, State.advance_pc]; rfl
  | some d => rw [State.advanceSlot_pc, State.advanceSlot_pc]

/-- The same of the state an instruction is executed on, which has the register loaded ahead besides. -/
theorem State.ahead_inner {s : State} {i : Instr}
    (again : s.busy.hold i = 0 ∨ 0x100000 ≤ s.sequenced.pc.toNat ∧ s.sequenced.pc.toNat < 0x300000)
    (dropped : standardFlow i = false ∨ 0x100000 ≤ (s.pc + 1).toNat ∧ (s.pc + 1).toNat < 0x300000) :
    ∃ b, s.ahead i = { s with early := if flushes i = true then none else s.lookahead i, busy := b } := by
  refine State.traces_inner (again.imp_right fun onChip => ?_) (dropped.imp_right fun onChip => ?_)
  · rw [State.sequenced_pc_early]
    exact State.onBus_onChip _ onChip.1 onChip.2
  · exact State.onBus_onChip _ onChip.1 onChip.2

end Sys2Proof.Machine

open Sys2Proof Sys2Proof.Machine

/-- Settles O8: the CPU's turn issues the decoded instruction, in a delay slot or outside; the fetch from on-chip RAM; the
traces of other fetches. -/
theorem stepRunsDecoded : Obligations.StepRunsDecoded := by
  refine ⟨?_, fun s => State.fetchWord_ram, fun s i flow again => State.ahead_inner again (.inl flow),
    fun s i _ low high again => State.ahead_inner again (.inr ⟨low, high⟩)⟩
  intro s t rest w i x phase entering taken turn fetched decoded
  have sampled := State.sample_of_running phase
  have issued : step s = t.issue i := by
    refine (step_of_cpu phase turn).trans (State.cpuTurn_of_running ?_ ?_ taken fetched decoded)
    · rw [State.forward_phase, sampled]
      exact phase
    · rw [State.forward_entering, sampled]
      exact entering
  rw [issued]
  refine ⟨fun free allowed => ?_, fun d slot allowed => ⟨fun kept => ?_, fun annulled => ?_⟩⟩
  · simp [State.issue, free, allowed]
  · simp [State.issue, slot, allowed, kept]
  · simp [State.issue, slot, allowed, annulled]
end

section
/-! PROOFS. The interlocked instructions (O51): their plain twins between two changes of a lock signal. -/

namespace Sys2Proof.Machine

theorem plainFlags_eq (w : Word) : plainFlags w = plainOutcome w none := by
  simp [plainFlags, plainOutcome, beq_eq_decide]

/-- The flags of a single-precision word that is copied, read off the word itself. -/
theorem copyFlags_single (w : Word) :
    copyFlags (singleToExtended w) = (w ++ (0 : BitVec 8),
      { v := false, uf := false, luf := false, c := none
        n := w.getLsbD 23 && decide (w.extractLsb' 24 8 ≠ 0x80), z := decide (w.extractLsb' 24 8 = 0x80) }) := by
  have field : (singleToExtended w).extractLsb' 32 8 = w.extractLsb' 24 8 := by
    rw [singleToExtended, BitVec.extractLsb'_append_eq_of_le (by decide)]
  have zero : exponent (singleToExtended w) = -128 ↔ w.extractLsb' 24 8 = 0x80 := by
    rw [exponent, field]
    exact BitVec.toInt_inj (y := (0x80 : BitVec 8))
  have sign : (singleToExtended w).getLsbD 31 = w.getLsbD 23 := by
    rw [singleToExtended, BitVec.getLsbD_append, if_neg (by decide)]
  simp only [copyFlags, sign, ne_eq, zero]
  rfl

/-! ### The meanings, where their access finishes -/

theorem Res.andThen_of_ok {α : Type} {x : Res α} {f : α → State → State} {a : α} {t : State} (h : x = .ok a t) :
    x.andThen f = .ok () (f a t) := by
  rw [h, Res.andThen_ok]

section
variable {s u : State} {m : Mem} {w : Word}

theorem exec_ldii (dst : Reg) (h : (s.lockLow m).sequenced.fetch .interlocked m = .ok w u) :
    exec (.ldii dst m) s = .next (u.result dst (plainFlags w)) := by
  change (s.lockLow m).run (fun t => t.unary dst (t.fetch .interlocked m) plainFlags) = _
  exact State.run_of_ok (Res.andThen_of_ok h)

theorem exec_ldfi (dst : FReg) (h : (s.lockLow m).sequenced.fetch .plain m = .ok w u) :
    exec (.ldfi dst m) s = .next (u.resultF dst (copyFlags (singleToExtended w))) := by
  change (s.lockLow m).run (fun t => (t.fetch .plain m).andThen fun w u => u.resultF dst (copyFlags (singleToExtended w))) = _
  exact State.run_of_ok (Res.andThen_of_ok h)

theorem exec_sigi (dst : Reg) (h : (s.lockLow m).sequenced.fetch .sigi m = .ok w u) :
    exec (.sigi dst m) s = .next ((u.setLock ((s.lockLow m).sequenced.memAddr m) true).result dst (plainFlags w)) := by
  change (s.lockLow m).run (fun t => (t.fetch .sigi m).andThen fun w u =>
    (u.setLock (t.memAddr m) true).result dst (plainFlags w)) = _
  exact State.run_of_ok (Res.andThen_of_ok h)

theorem exec_stii (src : Reg) (h : s.sequenced.store .interlocked m (s.sequenced.get src) = .ok () u) :
    exec (.stii src m) s = .next (u.setLock (s.sequenced.memAddr m) true) := by
  change s.run (fun t => (t.store .interlocked m (t.get src)).andThen fun _ u => u.setLock (t.memAddr m) true) = _
  exact State.run_of_ok (Res.andThen_of_ok h)

theorem exec_stfi (src : FReg) (h : s.sequenced.store .plain m (extendedToSingle (s.sequenced.getF src)) = .ok () u) :
    exec (.stfi src m) s = .next (u.setLock (s.sequenced.memAddr m) true) := by
  change s.run (fun t => (t.store .plain m (extendedToSingle (t.getF src))).andThen fun _ u =>
    u.setLock (t.memAddr m) true) = _
  exact State.run_of_ok (Res.andThen_of_ok h)

end

/-! ### The lock signals -/

/-- The top bit of an address tells the global bus from the local one. -/
theorem msb_eq_true_iff_global (a : Word) : a.msb = true ↔ 0x80000000 ≤ a.toNat := by
  rw [BitVec.msb_eq_decide, decide_eq_true_iff]

theorem State.setLock_global (s : State) {a : Word} (h : 0x80000000 ≤ a.toNat) (level : Bool) :
    (s.setLock a level).lockGlobal = level ∧ (s.setLock a level).lockLocal = s.lockLocal := by
  have strobe : s.onBus a = true := by rw [State.onBus_eq, selectsStrobe, if_pos h]
  simp [State.setLock, strobe, (msb_eq_true_iff_global a).2 h]

theorem State.setLock_local (s : State) {a : Word} (h : a.toNat < 0x80000000)
    (strobe : selectsStrobe s.pins.romen a = true) (level : Bool) :
    (s.setLock a level).lockLocal = level ∧ (s.setLock a level).lockGlobal = s.lockGlobal := by
  have side : a.msb = false := by
    rw [← Bool.not_eq_true, msb_eq_true_iff_global]
    omega
  simp [State.setLock, State.onBus_eq, strobe, side]

theorem State.setLock_inner (s : State) {a : Word} (h : selectsStrobe s.pins.romen a = false) (level : Bool) :
    s.setLock a level = s := by
  simp [State.setLock, State.onBus_eq, h]

end Sys2Proof.Machine

open Sys2Proof Sys2Proof.Machine

/-- Settles O51: each interlocked instruction where its access finishes, and `State.setLock` address range by range. -/
theorem interlocked : Obligations.Interlocked := by
  refine ⟨fun s u m w => ⟨fun dst h => ?_, fun dst h => ?_, fun dst h => ?_, fun src h => exec_stii src h,
    fun src h => exec_stfi src h⟩, fun s a level => ⟨fun h => s.setLock_global h level,
      fun h strobe => s.setLock_local h strobe level, fun h => s.setLock_inner h level, ?_⟩⟩
  · rw [← plainFlags_eq]
    exact exec_ldii dst h
  · rw [← copyFlags_single]
    exact exec_ldfi dst h
  · rw [← plainFlags_eq]
    exact exec_sigi dst h
  · and_intros <;> simp
end

section
/-! PROOFS. Decoding an encoded instruction gives it back (O1): the codes invert, field by field; a word of each format has the
fields it was put together from; and each operation's row of the decoder reads the fields its row of the encoder writes. -/

namespace Sys2Proof

open BitVec (extractLsb'_append_eq_left extractLsb'_append_eq_right extractLsb'_append_eq_of_le
  extractLsb'_append_eq_of_add_le extractLsb'_append_eq_ite extractLsb'_eq_self)

/-! ### Codes of registers, conditions and modes -/

/-- A decoder of some field gives back whatever an encoder wrote there. -/
abbrev Inverts {α : Type} {n : Nat} (dec : BitVec n → Except Reject α) (enc : α → BitVec n) : Prop :=
  ∀ a, dec (enc a) = .ok a

theorem regOfCode_codeOfReg (r : Reg) : regOfCode (codeOfReg r) = r := by
  cases r with
  | r n => revert n; decide
  | ar n => revert n; decide
  | _ => rfl

theorem anyReg_inverts : Inverts anyReg codeOfReg := fun r => congrArg Except.ok (regOfCode_codeOfReg r)

theorem fregOfCode_inverts : Inverts fregOfCode codeOfFReg := fun n => by
  rw [codeOfFReg, fregOfCode, regOfCode_codeOfReg]

/-- The destination field of an operation without a destination is zero. -/
theorem mustBeZero_inverts {n : Nat} : Inverts (mustBeZero (n := n)) fun _ : Unit => 0 := fun _ => if_pos rfl

theorem xregOfCode_inverts : Inverts xregOfCode codeOfXReg := fun x => by cases x <;> rfl

theorem condOfCode_inverts : Inverts condOfCode codeOfCond := fun c => by cases c <;> rfl

theorem modeOfCode_inverts : Inverts modeOfCode codeOfMode := fun m => by
  cases m with
  | indexed x step => cases x <;> cases step <;> rfl
  | _ => rfl

/-! ### Operand fields -/

/-- What follows a part of the decoder that accepted its field. -/
theorem ok_bind {α β : Type} (a : α) (f : α → Except Reject β) : (Except.ok a >>= f) = f a := rfl

theorem indOfBits_inverts : Inverts indOfBits bitsOfInd := fun i => by
  rw [bitsOfInd, indOfBits, extractLsb'_append_eq_left, extractLsb'_append_eq_right, modeOfCode_inverts]
  rfl

theorem dispOfBits_bitsOfDisp (d : Disp) : dispOfBits (bitsOfDisp d) = d := by
  rw [bitsOfDisp, dispOfBits, extractLsb'_append_eq_left, extractLsb'_append_eq_right]

theorem indOfField_bitsOfInd (i : Ind) (d : BitVec 8) : indOfField (bitsOfInd i ++ d) = .ok (.ind i d) := by
  rw [indOfField, extractLsb'_append_eq_left, extractLsb'_append_eq_right, indOfBits_inverts]
  rfl

section
variable {ρ : Type} {dec : BitVec 5 → Except Reject ρ} {enc : ρ → BitVec 5} (inv : Inverts dec enc)
include inv

theorem regOfField_inverts : Inverts (regOfField dec) fun r => 0#11 ++ enc r := fun r => by
  rw [regOfField, extractLsb'_append_eq_left, extractLsb'_append_eq_right, if_pos (by decide), inv]

theorem regOfByte_inverts : Inverts (regOfByte dec) fun r => 0#3 ++ enc r := fun r => by
  rw [regOfByte, extractLsb'_append_eq_left, extractLsb'_append_eq_right, if_pos (by decide), inv]

theorem srcOfField_fieldOfSrc (o : Src ρ) : srcOfField dec (fieldOfSrc enc o).1 (fieldOfSrc enc o).2 = .ok o := by
  rcases o with r | ⟨a | ⟨i, d⟩⟩ | v
  · exact congrArg (· >>= fun r => pure (Src.reg r)) (regOfField_inverts inv r)
  · rfl
  · exact congrArg (· >>= fun m => pure (Src.mem m)) (indOfField_bitsOfInd i d)
  · rfl

theorem triOfFields_fieldsOfTri {imm : Bool} {o : Tri ρ} (offered : imm = true ∨ noImmediate o = true) :
    triOfFields dec imm (fieldsOfTri enc o).1 (fieldsOfTri enc o).2.1 (fieldsOfTri enc o).2.2.1 (fieldsOfTri enc o).2.2.2
      = .ok o := by
  cases o with
  | regImm | dispImm =>
    have imm : imm = true := offered.resolve_right Bool.false_ne_true
    simp [triOfFields, fieldsOfTri, regOfByte_inverts inv, dispOfBits_bitsOfDisp, imm]
  | _ => simp [triOfFields, fieldsOfTri, regOfByte_inverts inv, indOfBits_inverts, dispOfBits_bitsOfDisp, ok_bind]

end

theorem memOfField_fieldOfMem (m : Mem) : memOfField (fieldOfMem m).1 (fieldOfMem m).2 = .ok m := by
  cases m with
  | dir a => rfl
  | ind i d => exact indOfField_bitsOfInd i d

theorem targetOfFields_fieldsOfTarget (t : Target) : targetOfFields (fieldsOfTarget t).1 (fieldsOfTarget t).2 = .ok t := by
  cases t with
  | reg r => exact congrArg (· >>= fun r => pure (Target.reg r)) (regOfField_inverts anyReg_inverts r)
  | rel d => rfl

/-! ### The fields of a word of each format -/

theorem encGeneral_fields (op : BitVec 6) (d : BitVec 5) (g : BitVec 2 × BitVec 16) :
    let w := encGeneral op d g
    field w 29 3 = 0#3 ∧ field w 23 6 = op ∧ field w 21 2 = g.1 ∧ field w 16 5 = d ∧ field w 0 16 = g.2 := by
  simp (disch := decide) only [field, encGeneral, extractLsb'_append_eq_of_le, extractLsb'_append_eq_of_add_le,
    Nat.reduceSub, extractLsb'_eq_self, and_self]

theorem encTri_fields (op d : BitVec 5) (f : BitVec 1 × BitVec 2 × BitVec 8 × BitVec 8) :
    let w := encTri op d f
    field w 29 3 = 1#3 ∧ field w 28 1 = f.1 ∧ field w 23 5 = op ∧ field w 21 2 = f.2.1 ∧ field w 16 5 = d
      ∧ field w 8 8 = f.2.2.1 ∧ field w 0 8 = f.2.2.2 := by
  simp (disch := decide) only [field, encTri, extractLsb'_append_eq_of_le, extractLsb'_append_eq_of_add_le,
    Nat.reduceSub, extractLsb'_eq_self, and_self]

theorem encCondLoad_fields (k : BitVec 1) (c : Cond) (d : BitVec 5) (g : BitVec 2 × BitVec 16) :
    let w := encCondLoad k c d g
    field w 29 3 = 2#3 ∧ field w 28 1 = k ∧ field w 23 5 = codeOfCond c ∧ field w 21 2 = g.1 ∧ field w 16 5 = d
      ∧ field w 0 16 = g.2 := by
  simp (disch := decide) only [field, encCondLoad, extractLsb'_append_eq_of_le, extractLsb'_append_eq_of_add_le,
    Nat.reduceSub, extractLsb'_eq_self, and_self]

theorem encLong_fields (op : BitVec 5) (d : BitVec 24) :
    let w := encLong op d
    field w 29 3 = 3#3 ∧ field w 27 2 = op.extractLsb' 3 2 ∧ field w 24 4 = op.extractLsb' 0 4 ∧ field w 0 24 = d := by
  simp (disch := decide) only [field, encLong, extractLsb'_append_eq_of_le, extractLsb'_append_eq_of_add_le,
    Nat.reduceSub, extractLsb'_eq_self, and_self]

theorem encBranch_fields (k : BitVec 1) (f : BitVec 4) (c : Cond) (t : BitVec 1 × BitVec 16) :
    let w := encBranch k f c t
    field w 29 3 = 3#3 ∧ field w 27 2 = 1#2 ∧ field w 26 1 = k ∧ field w 25 1 = t.1 ∧ field w 21 4 = f
      ∧ field w 21 1 = f.extractLsb' 0 1 ∧ field w 22 3 = f.extractLsb' 1 3 ∧ field w 16 5 = codeOfCond c
      ∧ field w 0 16 = t.2 := by
  simp (disch := decide) only [field, encBranch, extractLsb'_append_eq_of_le, extractLsb'_append_eq_of_add_le,
    Nat.reduceSub, extractLsb'_eq_self, and_self]
  decide

theorem encCall_fields (f : BitVec 4) (c : Cond) (t : BitVec 1 × BitVec 16) :
    let w := encCall f c t
    field w 29 3 = 3#3 ∧ field w 27 2 = 2#2 ∧ field w 26 1 = 0#1 ∧ field w 25 1 = t.1 ∧ field w 21 4 = f
      ∧ field w 16 5 = codeOfCond c ∧ field w 0 16 = t.2 := by
  simp (disch := decide) only [field, encCall, extractLsb'_append_eq_of_le, extractLsb'_append_eq_of_add_le,
    Nat.reduceSub, extractLsb'_eq_self, and_self]
  decide

theorem encTrap_fields (f c : BitVec 5) (s : BitVec 16) :
    let w := encTrap f c s
    field w 29 3 = 3#3 ∧ field w 27 2 = 2#2 ∧ field w 26 1 = 1#1 ∧ field w 21 5 = f ∧ field w 16 5 = c
      ∧ field w 9 7 = s.extractLsb' 9 7 ∧ field w 0 9 = s.extractLsb' 0 9 ∧ field w 5 11 = s.extractLsb' 5 11
      ∧ field w 0 5 = s.extractLsb' 0 5 := by
  simp (disch := decide) only [field, encTrap, extractLsb'_append_eq_of_le, extractLsb'_append_eq_of_add_le,
    Nat.reduceSub, extractLsb'_eq_self, and_self]
  decide

theorem encReturn_fields (f : BitVec 6) (c : BitVec 5) (s : BitVec 16) :
    let w := encReturn f c s
    field w 29 3 = 3#3 ∧ field w 27 2 = 3#2 ∧ field w 21 6 = f ∧ field w 16 5 = c ∧ field w 0 16 = s
      ∧ field w 0 5 = s.extractLsb' 0 5 := by
  simp (disch := decide) only [field, encReturn, extractLsb'_append_eq_of_le, extractLsb'_append_eq_of_add_le,
    Nat.reduceSub, extractLsb'_eq_self, and_self]
  decide

theorem encMulAdd_fields (op : BitVec 4) (o : MulAdd) :
    let w := encMulAdd op o
    field w 29 3 = (2#2 ++ op).extractLsb' 3 3 ∧ field w 26 4 = op ∧ field w 24 2 = o.p
      ∧ field w 23 1 = BitVec.ofBool o.d1 ∧ field w 22 1 = BitVec.ofBool o.d2 ∧ field w 19 3 = BitVec.ofFin o.src1
      ∧ field w 16 3 = BitVec.ofFin o.src2 ∧ field w 8 8 = bitsOfInd o.src3 ∧ field w 0 8 = bitsOfInd o.src4 := by
  simp (disch := decide) only [field, encMulAdd, extractLsb'_append_eq_of_le, extractLsb'_append_eq_of_add_le,
    Nat.reduceSub, extractLsb'_eq_self, and_self]

theorem encByte_fields (f : BitVec 6) (d : BitVec 5) (g : BitVec 2 × BitVec 16) :
    let w := encByte f d g
    field w 29 3 = 5#3 ∧ field w 25 4 = f.extractLsb' 2 4 ∧ field w 24 1 = f.extractLsb' 1 1
      ∧ field w 23 2 = f.extractLsb' 0 2 ∧ field w 23 1 = f.extractLsb' 0 1 ∧ field w 21 2 = g.1 ∧ field w 16 5 = d
      ∧ field w 0 16 = g.2 := by
  simp (disch := decide) only [field, encByte, extractLsb'_append_eq_of_le, extractLsb'_append_eq_of_add_le,
    Nat.reduceSub, extractLsb'_eq_self, and_self]

theorem encParallel_fields (op : BitVec 5) (p q r : PReg) (e b : Ind) :
    let w := encParallel op p q r e b
    field w 29 3 = (3#2 ++ op).extractLsb' 4 3 ∧ field w 25 5 = op ∧ field w 22 3 = BitVec.ofFin p
      ∧ field w 19 3 = BitVec.ofFin q ∧ field w 16 3 = BitVec.ofFin r ∧ field w 8 8 = bitsOfInd e
      ∧ field w 0 8 = bitsOfInd b := by
  simp (disch := decide) only [field, encParallel, extractLsb'_append_eq_of_le, extractLsb'_append_eq_of_add_le,
    Nat.reduceSub, extractLsb'_eq_self, and_self]

/-! ### The rows of each class

Each lemma is for the operations of one shape. Its hypothesis `row` is what the decoder makes of any word with the operation's
code; for each operation it follows by unfolding the decoder at that code. -/

section
variable {α ρ : Type} {decD : BitVec 5 → Except Reject α} {encD : α → BitVec 5} {dec : BitVec 5 → Except Reject ρ}
  {enc : ρ → BitVec 5}

/-- A word of the general format is decoded by what the row of its operation says of its fields. -/
theorem decode_encGeneral {op : BitVec 6} {d : BitVec 5} {g : BitVec 2 × BitVec 16} {x : Except Reject Instr}
    (row : ∀ w, field w 23 6 = op → field w 21 2 = g.1 → field w 16 5 = d → field w 0 16 = g.2 →
        decodeGeneral w = x := by
      intro w hop hg hd hs; unfold decodeGeneral; rw [hop, hg, hd, hs]; rfl) :
    decode (encGeneral op d g) = x := by
  obtain ⟨hclass, hop, hg, hd, hs⟩ := encGeneral_fields op d g
  rw [decode, hclass]
  exact row _ hop hg hd hs

/-- An operation with a destination and a source operand. -/
theorem decode_general {op : BitVec 6} {mk : α → Src ρ → Instr} (dst : Inverts decD encD) (src : Inverts dec enc)
    (d : α) (o : Src ρ)
    (row : ∀ w, field w 23 6 = op → decodeGeneral w = (do
      return mk (← decD (field w 16 5)) (← srcOfField dec (field w 21 2) (field w 0 16))) := by
        intro w h; unfold decodeGeneral; rw [h]; rfl) :
    decode (encGeneral op (encD d) (fieldOfSrc enc o)) = .ok (mk d o) := by
  refine decode_encGeneral fun w hop hg hd hs => ?_
  rw [row w hop, hg, hd, hs, dst, srcOfField_fieldOfSrc src]
  rfl

/-- An operation with a register or no register and a memory operand. -/
theorem decode_memory {op : BitVec 6} {mk : α → Mem → Instr} (dst : Inverts decD encD) (d : α) (m : Mem)
    (row : ∀ w, field w 23 6 = op → decodeGeneral w = (do
      return mk (← decD (field w 16 5)) (← memOfField (field w 21 2) (field w 0 16))) := by
        intro w h; unfold decodeGeneral; rw [h]; rfl) :
    decode (encGeneral op (encD d) (fieldOfMem m)) = .ok (mk d m) := by
  refine decode_encGeneral fun w hop hg hd hs => ?_
  rw [row w hop, hg, hd, hs, dst, memOfField_fieldOfMem]
  rfl

/-- An operation of the system stack. -/
theorem decode_stack {op : BitVec 6} {mk : α → Instr} (dst : Inverts decD encD) (d : α)
    (row : ∀ w, field w 23 6 = op → decodeGeneral w = (do
      let _ ← mustBeZero (field w 21 2 - 1)
      let _ ← mustBeZero (field w 0 16)
      return mk (← decD (field w 16 5))) := by
        intro w h; unfold decodeGeneral; rw [h]; rfl) :
    decode (encGeneral op (encD d) (1, 0)) = .ok (mk d) := by
  refine decode_encGeneral fun w hop hg hd hs => ?_
  rw [row w hop, hg, hd, hs, dst]
  rfl

/-- A rotate. -/
theorem decode_rotate {op : BitVec 6} {mk : Reg → Instr} (d : Reg)
    (row : ∀ w, field w 23 6 = op → decodeGeneral w =
      if field w 21 2 = 3#2 then .ok (mk (regOfCode (field w 16 5))) else .error .undefinedAddressing := by
        intro w h; unfold decodeGeneral; rw [h]; rfl) :
    decode (encGeneral op (codeOfReg d) (3, 0)) = .ok (mk d) := by
  refine decode_encGeneral fun w hop hg hd _ => ?_
  rw [row w hop, hg, hd, if_pos (by rfl), regOfCode_codeOfReg]

/-- A three-operand operation, with or without a destination. -/
theorem decode_tri {op : BitVec 5} {mk : α → Tri ρ → Instr} {imm : Bool} (dst : Inverts decD encD) (src : Inverts dec enc)
    (d : α) (o : Tri ρ) (offered : imm = true ∨ noImmediate o = true)
    (row : ∀ w, field w 23 5 = op → decodeTri w = (do
      return mk (← decD (field w 16 5))
        (← triOfFields dec imm (field w 28 1) (field w 21 2) (field w 8 8) (field w 0 8))) := by
        intro w h; unfold decodeTri; rw [h]; rfl) :
    decode (encTri op (encD d) (fieldsOfTri enc o)) = .ok (mk d o) := by
  obtain ⟨hclass, hty, hop, ht, hd, ha, hb⟩ := encTri_fields op (encD d) (fieldsOfTri enc o)
  rw [decode, hclass]
  change decodeTri _ = _
  rw [row _ hop, hty, ht, hd, ha, hb, dst, triOfFields_fieldsOfTri src offered]
  rfl

/-- A conditional load. -/
theorem decode_condLoad {k : BitVec 1} {mk : Cond → α → Src ρ → Instr} (dst : Inverts decD encD) (src : Inverts dec enc)
    (c : Cond) (d : α) (o : Src ρ)
    (row : ∀ w, field w 28 1 = k → decodeCondLoad w = (do
      return mk (← condOfCode (field w 23 5)) (← decD (field w 16 5))
        (← srcOfField dec (field w 21 2) (field w 0 16))) := by
        intro w h; unfold decodeCondLoad; rw [h]; rfl) :
    decode (encCondLoad k c (encD d) (fieldOfSrc enc o)) = .ok (mk c d o) := by
  obtain ⟨hclass, hk, hc, hg, hd, hs⟩ := encCondLoad_fields k c (encD d) (fieldOfSrc enc o)
  rw [decode, hclass]
  change decodeCondLoad _ = _
  rw [row _ hk, hc, hg, hd, hs, condOfCode_inverts, dst, srcOfField_fieldOfSrc src]
  rfl

end

/-- Class 011 is decoded by its own table. -/
theorem decode_of_control {w : Word} (h : field w 29 3 = 3#3) : decode w = decodeControl w := by
  rw [decode, h]
  rfl

/-- An operation with a 24-bit displacement. -/
theorem decode_long {op : BitVec 5} {mk : BitVec 24 → Instr} (d : BitVec 24)
    (row : ∀ w, field w 27 2 = op.extractLsb' 3 2 → field w 24 4 = op.extractLsb' 0 4 →
      decodeControl w = .ok (mk (field w 0 24)) := by
        intro w h k; unfold decodeControl decodeLong; rw [h, k]; rfl) :
    decode (encLong op d) = .ok (mk d) := by
  obtain ⟨hclass, hsub, hop, hd⟩ := encLong_fields op d
  rw [decode_of_control hclass, row _ hsub hop, hd]

/-- A conditional branch. -/
theorem decode_branch {f : BitVec 4} {mk : Cond → Target → Instr} (c : Cond) (t : Target)
    (row : ∀ w, field w 26 1 = 0#1 → field w 21 4 = f → decodeBranch w = (do
      let t ← targetOfFields (field w 25 1) (field w 0 16)
      return mk (← condOfCode (field w 16 5)) t) := by
        intro w h k; unfold decodeBranch; rw [h, k]; rfl) :
    decode (encBranch 0 f c (fieldsOfTarget t)) = .ok (mk c t) := by
  obtain ⟨hclass, hsub, hk, hb, hf, -, -, hc, hs⟩ := encBranch_fields 0 f c (fieldsOfTarget t)
  rw [decode_of_control hclass, decodeControl, hsub]
  change decodeBranch _ = _
  rw [row _ hk hf, hb, hs, hc, targetOfFields_fieldsOfTarget, condOfCode_inverts]
  rfl

/-- A branch that counts an auxiliary register down. -/
theorem decode_decrement {f : BitVec 1} {mk : Fin 8 → Cond → Target → Instr} (n : Fin 8) (c : Cond) (t : Target)
    (row : ∀ w, field w 26 1 = 1#1 → field w 21 1 = f → decodeBranch w = (do
      let t ← targetOfFields (field w 25 1) (field w 0 16)
      return mk (field w 22 3).toFin (← condOfCode (field w 16 5)) t) := by
        intro w h k; unfold decodeBranch; rw [h, k]; rfl) :
    decode (encBranch 1 (BitVec.ofFin (w := 3) n ++ f) c (fieldsOfTarget t)) = .ok (mk n c t) := by
  obtain ⟨hclass, hsub, hk, hb, -, hf, hn, hc, hs⟩ := encBranch_fields 1 (BitVec.ofFin (w := 3) n ++ f) c (fieldsOfTarget t)
  rw [decode_of_control hclass, decodeControl, hsub]
  change decodeBranch _ = _
  rw [row _ hk (hf.trans extractLsb'_append_eq_right), hb, hs, hc, hn, extractLsb'_append_eq_left,
    targetOfFields_fieldsOfTarget, condOfCode_inverts]
  rfl

/-- A conditional call. -/
theorem decode_call {f : BitVec 4} {mk : Cond → Target → Instr} (c : Cond) (t : Target)
    (row : ∀ w, field w 21 4 = f → decodeCall w = (do
      let t ← targetOfFields (field w 25 1) (field w 0 16)
      return mk (← condOfCode (field w 16 5)) t) := by
        intro w h; unfold decodeCall; rw [h]; rfl) :
    decode (encCall f c (fieldsOfTarget t)) = .ok (mk c t) := by
  obtain ⟨hclass, hsub, hk, hb, hf, hc, hs⟩ := encCall_fields f c (fieldsOfTarget t)
  rw [decode_of_control hclass, decodeControl, hsub]
  change (if field _ 26 1 = 0 then decodeCall _ else _) = _
  rw [hk, if_pos (by rfl), row _ hf, hb, hs, hc, targetOfFields_fieldsOfTarget, condOfCode_inverts]
  rfl

theorem decode_encTrap (f c : BitVec 5) (s : BitVec 16) : decode (encTrap f c s) = decodeTrap (encTrap f c s) := by
  obtain ⟨hclass, hsub, hk, -⟩ := encTrap_fields f c s
  rw [decode_of_control hclass, decodeControl, hsub]
  change (if field _ 26 1 = 0 then _ else decodeTrap _) = _
  rw [hk, if_neg (by decide)]

/-- A trap. -/
theorem decode_trap {f : BitVec 5} {mk : Cond → BitVec 9 → Instr} (c : Cond) (n : BitVec 9)
    (row : ∀ w, field w 21 5 = f → decodeTrap w = (do
      let c ← condOfCode (field w 16 5)
      let _ ← mustBeZero (field w 9 7)
      return mk c (field w 0 9)) := by
        intro w h; unfold decodeTrap; rw [h]; rfl) :
    decode (encTrap f (codeOfCond c) (0#7 ++ n)) = .ok (mk c n) := by
  obtain ⟨-, -, -, hf, hc, hzero, hn, -, -⟩ := encTrap_fields f (codeOfCond c) (0#7 ++ n)
  rw [decode_encTrap, row _ hf, hc, hzero, hn, extractLsb'_append_eq_left, extractLsb'_append_eq_right,
    condOfCode_inverts]
  rfl

/-- A load from or to the expansion register file. -/
theorem decode_expansion {α β : Type} {decD : BitVec 5 → Except Reject α} {encD : α → BitVec 5}
    {dec : BitVec 5 → Except Reject β} {enc : β → BitVec 5} {f : BitVec 5} {mk : α → β → Instr}
    (dst : Inverts decD encD) (src : Inverts dec enc) (d : α) (o : β)
    (row : ∀ w, field w 21 5 = f → decodeTrap w = (do
      let _ ← mustBeZero (field w 5 11)
      return mk (← decD (field w 16 5)) (← dec (field w 0 5))) := by
        intro w h; unfold decodeTrap; rw [h]; rfl) :
    decode (encTrap f (encD d) (0#11 ++ enc o)) = .ok (mk d o) := by
  obtain ⟨-, -, -, hf, hd, -, -, hzero, hs⟩ := encTrap_fields f (encD d) (0#11 ++ enc o)
  rw [decode_encTrap, row _ hf, hd, hzero, hs, extractLsb'_append_eq_left, extractLsb'_append_eq_right, dst, src]
  rfl

theorem decode_encReturn (f : BitVec 6) (c : BitVec 5) (s : BitVec 16) :
    decode (encReturn f c s) = decodeReturn (encReturn f c s) := by
  obtain ⟨hclass, hsub, -⟩ := encReturn_fields f c s
  rw [decode_of_control hclass, decodeControl, hsub]
  rfl

/-- A return. -/
theorem decode_return {f : BitVec 6} {mk : Cond → Instr} (c : Cond)
    (row : ∀ w, field w 21 6 = f → decodeReturn w = (do
      let _ ← mustBeZero (field w 0 16)
      return mk (← condOfCode (field w 16 5))) := by
        intro w h; unfold decodeReturn; rw [h]; rfl) :
    decode (encReturn f (codeOfCond c) 0) = .ok (mk c) := by
  obtain ⟨-, -, hf, hc, hzero, -⟩ := encReturn_fields f (codeOfCond c) 0
  rw [decode_encReturn, row _ hf, hc, hzero, condOfCode_inverts]
  rfl

/-- A repeat block whose end is in a register. -/
theorem decode_repeat {f : BitVec 6} {mk : BlockEnd → Instr} (r : Reg)
    (row : ∀ w, field w 21 6 = f → decodeReturn w = (do
      let _ ← mustBeZero (field w 5 16)
      return mk (.reg (regOfCode (field w 0 5)))) := by
        intro w h; unfold decodeReturn; rw [h]; rfl) :
    decode (encReturn f 0 (0#11 ++ codeOfReg r)) = .ok (mk (.reg r)) := by
  obtain ⟨-, -, hf, -, -, hr⟩ := encReturn_fields f 0 (0#11 ++ codeOfReg r)
  have hzero : field (encReturn f 0 (0#11 ++ codeOfReg r)) 5 16 = 0 := by
    simp only [field, encReturn, extractLsb'_append_eq_ite]
    simp
  rw [decode_encReturn, row _ hf, hzero, hr, extractLsb'_append_eq_right, regOfCode_codeOfReg]
  rfl

/-- A multiply-add pair. -/
theorem decode_mulAdd {op : BitVec 4} {mk : MulAdd → Instr} (o : MulAdd)
    (row : ∀ w, field w 29 3 = (2#2 ++ op).extractLsb' 3 3 → field w 26 4 = op → decode w = (do
      let i ← indOfBits (field w 8 8)
      let j ← indOfBits (field w 0 8)
      return mk ⟨field w 24 2, field w 23 1 = 1, field w 22 1 = 1, (field w 19 3).toFin, (field w 16 3).toFin, i, j⟩) := by
        intro w h k; unfold decode decodeMulAdd; rw [h, k]; rfl) :
    decode (encMulAdd op o) = .ok (mk o) := by
  obtain ⟨hclass, hop, hp, h1, h2, hx, hy, hi, hj⟩ := encMulAdd_fields op o
  have flag : ∀ b : Bool, decide (BitVec.ofBool b = 1) = b := by decide
  rw [row _ hclass hop, hp, h1, h2, hx, hy, hi, hj, indOfBits_inverts, indOfBits_inverts, flag, flag]
  rfl

section
variable (d : Reg) (o : Src Reg)

/-- A byte instruction. -/
theorem decode_byte {f : BitVec 4} {mk : BitVec 2 → Reg → Src Reg → Instr} (b : BitVec 2)
    (row : ∀ w, field w 25 4 = f → decodeByte w = (do
      let s ← srcOfField anyReg (field w 21 2) (field w 0 16)
      return mk (field w 23 2) (regOfCode (field w 16 5)) s) := by
        intro w h; unfold decodeByte; rw [h]; rfl) :
    decode (encByte (f ++ b) (codeOfReg d) (fieldOfSrc codeOfReg o)) = .ok (mk b d o) := by
  obtain ⟨hclass, hf, -, hb, -, hg, hd, hs⟩ := encByte_fields (f ++ b) (codeOfReg d) (fieldOfSrc codeOfReg o)
  rw [decode, hclass]
  change decodeByte _ = _
  rw [row _ (hf.trans extractLsb'_append_eq_left), hb, hg, hd, hs, extractLsb'_append_eq_right,
    srcOfField_fieldOfSrc anyReg_inverts, regOfCode_codeOfReg]
  rfl

/-- A half-word instruction. -/
theorem decode_half {f : BitVec 5} {mk : BitVec 1 → Reg → Src Reg → Instr} (k : BitVec 1)
    (row : ∀ w, field w 25 4 = f.extractLsb' 1 4 → field w 24 1 = f.extractLsb' 0 1 → decodeByte w = (do
      let s ← srcOfField anyReg (field w 21 2) (field w 0 16)
      return mk (field w 23 1) (regOfCode (field w 16 5)) s) := by
        intro w h k; unfold decodeByte; rw [h, k]; rfl) :
    decode (encByte (f ++ k) (codeOfReg d) (fieldOfSrc codeOfReg o)) = .ok (mk k d o) := by
  obtain ⟨hclass, hf, hf', -, hk, hg, hd, hs⟩ := encByte_fields (f ++ k) (codeOfReg d) (fieldOfSrc codeOfReg o)
  rw [decode, hclass]
  change decodeByte _ = _
  rw [row _ (hf.trans (extractLsb'_append_eq_of_le (by decide)))
    (hf'.trans (extractLsb'_append_eq_of_le (by decide))), hk, hg, hd, hs, extractLsb'_append_eq_right,
    srcOfField_fieldOfSrc anyReg_inverts, regOfCode_codeOfReg]
  rfl

end

/-- The parallel format: `mk` is what the operation makes of its registers and its two indirect operands. -/
theorem decode_parallel {op : BitVec 5} {mk : PReg → PReg → PReg → Ind → Ind → Except Reject Instr} (p q r : PReg)
    (e b : Ind)
    (row : ∀ w, field w 25 5 = op → decodeParallel w = (do
      let e ← indOfBits (field w 8 8)
      let b ← indOfBits (field w 0 8)
      mk (field w 22 3).toFin (field w 19 3).toFin (field w 16 3).toFin e b)) :
    decode (encParallel op p q r e b) = mk p q r e b := by
  obtain ⟨hclass, hop, hp, hq, hr, he, hb⟩ := encParallel_fields op p q r e b
  have class_parallel : ∀ op : BitVec 5, (3#2 ++ op).extractLsb' 4 3 = 6#3 ∨ (3#2 ++ op).extractLsb' 4 3 = 7#3 := by decide
  have decoded : decode (encParallel op p q r e b) = decodeParallel (encParallel op p q r e b) := by
    rw [decode, hclass]
    rcases class_parallel op with six | seven
    · rw [six]; rfl
    · rw [seven]; rfl
  rw [decoded, row _ hop, hp, hq, hr, he, hb, indOfBits_inverts, indOfBits_inverts]
  rfl

/-- A one-source operation with a store. -/
theorem decode_store {op : BitVec 5} {mk : ParStore → Instr} (o : ParStore)
    (row : ∀ w, field w 25 5 = op → decodeParallel w = (do
      let e ← indOfBits (field w 8 8)
      let b ← indOfBits (field w 0 8)
      let _ ← mustBeZero (field w 19 3)
      return mk ⟨(field w 22 3).toFin, (field w 16 3).toFin, e, b⟩) := by
        intro w h; unfold decodeParallel; rw [h]; rfl) :
    decode (encStore op o) = .ok (mk o) :=
  decode_parallel (mk := fun p q r e b => do
    let _ ← mustBeZero (BitVec.ofFin (w := 3) q)
    return mk ⟨p, r, e, b⟩) _ _ _ _ _ row

/-- Two stores. -/
theorem decode_stores {op : BitVec 5} {mk : ParStores → Instr} (o : ParStores)
    (row : ∀ w, field w 25 5 = op → decodeParallel w = (do
      let e ← indOfBits (field w 8 8)
      let b ← indOfBits (field w 0 8)
      let _ ← mustBeZero (field w 19 3)
      return mk ⟨(field w 22 3).toFin, (field w 16 3).toFin, e, b⟩) := by
        intro w h; unfold decodeParallel; rw [h]; rfl) :
    decode (encParallel op o.src2 0 o.src1 o.dst1 o.dst2) = .ok (mk o) :=
  decode_parallel (mk := fun p q r e b => do
    let _ ← mustBeZero (BitVec.ofFin (w := 3) q)
    return mk ⟨p, r, e, b⟩) _ _ _ _ _ row

/-- Two loads. -/
theorem decode_loads {op : BitVec 5} {mk : ParLoads → Instr} (o : ParLoads)
    (row : ∀ w, field w 25 5 = op → decodeParallel w = (do
      let e ← indOfBits (field w 8 8)
      let b ← indOfBits (field w 0 8)
      let _ ← mustBeZero (field w 16 3)
      return mk ⟨(field w 22 3).toFin, (field w 19 3).toFin, e, b⟩) := by
        intro w h; unfold decodeParallel; rw [h]; rfl) :
    decode (encParallel op o.dst2 o.dst1 0 o.src1 o.src2) = .ok (mk o) :=
  decode_parallel (mk := fun p q r e b => do
    let _ ← mustBeZero (BitVec.ofFin (w := 3) r)
    return mk ⟨p, q, e, b⟩) _ _ _ _ _ row

/-- A two-source operation with a store. -/
theorem decode_store3 {op : BitVec 5} {mk : ParStore3 → Instr} (o : ParStore3)
    (row : ∀ w, field w 25 5 = op → decodeParallel w = (do
      let e ← indOfBits (field w 8 8)
      let b ← indOfBits (field w 0 8)
      return mk ⟨(field w 22 3).toFin, (field w 19 3).toFin, (field w 16 3).toFin, e, b⟩) := by
        intro w h; unfold decodeParallel; rw [h]; rfl) :
    decode (encStore3 op o) = .ok (mk o) :=
  decode_parallel (mk := fun p q r e b => .ok (mk ⟨p, q, r, e, b⟩)) _ _ _ _ _ row

/-! ### Operations of class 000 with a format of their own -/

/-- Only LDI of an immediate into DP would be read as LDP (40 R229). -/
theorem ldp_fields_of_notLdp {dst : Reg} {o : Src Reg} (h : notLdp dst o = true) :
    ¬((fieldOfSrc codeOfReg o).1 = 3#2 ∧ codeOfReg dst = 0x10#5) := by
  rintro ⟨hg, hd⟩
  have dp : dst = .dp := by rw [← regOfCode_codeOfReg dst, hd]; rfl
  subst dp
  rcases o with r | ⟨a | ⟨i, d⟩⟩ | v
  case imm => cases h
  all_goals cases hg

theorem decode_ldi {dst : Reg} {o : Src Reg} (h : notLdp dst o = true) : decode (encode (.ldi dst o)) = .ok (.ldi dst o) := by
  refine (decode_encGeneral (x :=
    if (fieldOfSrc codeOfReg o).1 = 3#2 ∧ codeOfReg dst = 0x10#5 then .ok (.ldp (fieldOfSrc codeOfReg o).2)
    else do return .ldi (regOfCode (codeOfReg dst))
                (← srcOfField anyReg (fieldOfSrc codeOfReg o).1 (fieldOfSrc codeOfReg o).2))).trans ?_
  rw [if_neg (ldp_fields_of_notLdp h), regOfCode_codeOfReg, srcOfField_fieldOfSrc anyReg_inverts]
  rfl

theorem decode_lda {dst : Reg} {o : Src Reg} (h : ldaDestination dst = true) :
    decode (encode (.lda dst o)) = .ok (.lda dst o) := by
  refine (decode_encGeneral (x := if ldaDestination (regOfCode (codeOfReg dst)) then do
    return .lda (regOfCode (codeOfReg dst)) (← srcOfField anyReg (fieldOfSrc codeOfReg o).1 (fieldOfSrc codeOfReg o).2)
    else .error .undefinedRegister)).trans ?_
  rw [regOfCode_codeOfReg, if_pos h, srcOfField_fieldOfSrc anyReg_inverts]
  rfl

theorem decode_rpts (o : Src Reg) : decode (encode (.rpts o)) = .ok (.rpts o) := by
  refine (decode_encGeneral (x := do
    return .rpts (← srcOfField anyReg (fieldOfSrc codeOfReg o).1 (fieldOfSrc codeOfReg o).2))).trans ?_
  rw [srcOfField_fieldOfSrc anyReg_inverts]
  rfl

theorem decode_nop (o : NopSrc) : decode (encode (.nop o)) = .ok (.nop o) := by
  cases o with
  | reg r =>
    refine (decode_encGeneral (x := do return .nop (.reg (← regOfField anyReg (0#11 ++ codeOfReg r))))).trans ?_
    rw [regOfField_inverts anyReg_inverts]
    rfl
  | ind i d =>
    refine (decode_encGeneral (x := do
      return .nop (.ind (← indOfBits ((bitsOfInd i ++ d).extractLsb' 8 8)) ((bitsOfInd i ++ d).extractLsb' 0 8)))).trans ?_
    rw [extractLsb'_append_eq_left, extractLsb'_append_eq_right, indOfBits_inverts]
    rfl

theorem decode_sti (src : Reg) (m : Mem) : decode (encode (.sti src m)) = .ok (.sti src m) := by
  have row : decode (encode (.sti src m))
      = (do return .sti (regOfCode (codeOfReg src)) (← memOfField (fieldOfMem m).1 (fieldOfMem m).2)) := by
    cases m with
    | dir a => exact decode_encGeneral
    | ind i d => exact decode_encGeneral
  rw [row, regOfCode_codeOfReg, memOfField_fieldOfMem]
  rfl

theorem decode_stik (k : BitVec 5) (m : Mem) : decode (encode (.stik k m)) = .ok (.stik k m) := by
  cases m with
  | dir a => exact decode_encGeneral
  | ind i d =>
    refine (decode_encGeneral (x := do return .stik k (← indOfField (bitsOfInd i ++ d)))).trans ?_
    rw [indOfField_bitsOfInd]
    rfl

theorem decode_ldp (v : BitVec 16) : decode (encode (.ldp v)) = .ok (.ldp v) := decode_encGeneral

theorem decode_ldpk (v : BitVec 16) : decode (encode (.ldpk v)) = .ok (.ldpk v) := decode_encGeneral

theorem decode_ldhi (dst : Reg) (v : BitVec 16) : decode (encode (.ldhi dst v)) = .ok (.ldhi dst v) := by
  refine (decode_encGeneral (x := .ok (.ldhi (regOfCode (codeOfReg dst)) v))).trans ?_
  rw [regOfCode_codeOfReg]

/-! ### Every instruction -/

/-- Decoding inverts encoding (30 R195). One case for each shape of row. -/
theorem decode_encode {i : Instr} (h : i.wellFormed = true) : decode (encode i) = .ok i := by
  have r := anyReg_inverts
  have f := fregOfCode_inverts
  have x := xregOfCode_inverts
  have noReg : Inverts mustBeZero fun _ : Unit => 0#5 := mustBeZero_inverts
  cases i with
  -- General format
  | absi d o | addc d o | addi d o | and d o | andn d o | ash d o | cmpi d o | lsh d o | mpyi d o | negb d o | negi d o
  | not d o | or d o | subb d o | subc d o | subi d o | subrb d o | subri d o | tstb d o | xor d o | mpyshi d o
  | mpyuhi d o => exact decode_general r r d o
  | absf d o | addf d o | cmpf d o | float d o | lde d o | ldf d o | ldm d o | mpyf d o | negf d o | norm d o | rnd d o
  | subf d o | subrf d o | toieee d o | rsqrf d o | rcpf d o => exact decode_general f f d o
  | fix d o => exact decode_general r f d o
  | ldfi d m | stf d m | stfi d m | frieee d m => exact decode_memory f d m
  | ldii d m | stii d m | sigi d m => exact decode_memory r d m
  | iack m => exact decode_memory (mk := fun _ => .iack) noReg () m
  | pop d | push d => exact decode_stack r d
  | popf d | pushf d => exact decode_stack f d
  | rol d | rolc d | ror d | rorc d => exact decode_rotate d
  | ldi d o => exact decode_ldi h
  | lda d o => exact decode_lda h
  | rpts o => exact decode_rpts o
  | nop o => exact decode_nop o
  | sti s m => exact decode_sti s m
  | stik k m => exact decode_stik k m
  | ldp v => exact decode_ldp v
  | ldpk v => exact decode_ldpk v
  | ldhi d v => exact decode_ldhi d v
  | idle | idle2 => rfl
  -- Three-operand format
  | addc3 d o | addi3 d o | and3 d o | andn3 d o | ash3 d o | lsh3 d o | mpyi3 d o | or3 d o | subb3 d o | subi3 d o
  | xor3 d o | mpyshi3 d o | mpyuhi3 d o => exact decode_tri r r d o (.inl rfl)
  | addf3 d o | mpyf3 d o | subf3 d o => exact decode_tri f f d o (.inr h)
  | cmpi3 o => exact decode_tri (mk := fun _ => .cmpi3) noReg r () o (.inl rfl)
  | tstb3 o => exact decode_tri (mk := fun _ => .tstb3) noReg r () o (.inl rfl)
  | cmpf3 o => exact decode_tri (mk := fun _ => .cmpf3) noReg f () o (.inr h)
  -- Conditional loads
  | ldfCond c d o => exact decode_condLoad f f c d o
  | ldiCond c d o => exact decode_condLoad r r c d o
  -- Program control
  | br d | brd d | call d | laj d => exact decode_long d
  | swi => rfl
  | bCond c t | bCondD c t | bCondAt c t | bCondAf c t => exact decode_branch c t
  | dbCond n c t | dbCondD n c t => exact decode_decrement n c t
  | callCond c t | lajCond c t => exact decode_call c t
  | trapCond c n | latCond c n => exact decode_trap c n
  | ldep d s => exact decode_expansion r x d s
  | ldpe d s => exact decode_expansion x r d s
  | retiCond c | retiCondD c | retsCond c => exact decode_return c
  | rptb e =>
    cases e with
    | rel d => exact decode_long (mk := fun d => .rptb (.rel d)) d
    | reg s => exact decode_repeat s
  | rptbd e =>
    cases e with
    | rel d => exact decode_long (mk := fun d => .rptbd (.rel d)) d
    | reg s => exact decode_repeat s
  -- Multiply-add pairs, bytes and half-words
  | mpyf3Addf3 o | mpyf3Subf3 o | mpyi3Addi3 o | mpyi3Subi3 o => exact decode_mulAdd o
  | lb b d o | lbu b d o | lwl b d o | lwr b d o | mb b d o => exact decode_byte d o b
  | lh k d o | lhu k d o | mh k d o => exact decode_half d o k
  -- Parallel format
  | stfStf o | stiSti o => exact decode_stores o
  | ldfLdf o | ldiLdi o => exact decode_loads o
  | absfStf o | absiSti o | fixSti o | floatStf o | ldfStf o | ldiSti o | negfStf o | negiSti o | notSti o | toieeeStf o
  | frieeeStf o => exact decode_store o
  | addf3Stf o | addi3Sti o | and3Sti o | ash3Sti o | lsh3Sti o | mpyf3Stf o | mpyi3Sti o | or3Sti o | subf3Stf o
  | subi3Sti o | xor3Sti o => exact decode_store3 o

end Sys2Proof

/-- Settles O1, by cases on the instruction. -/
theorem decodeOfEncode : Obligations.DecodeOfEncode := fun _ => Sys2Proof.decode_encode
end

section
/-! PROOFS. The stuck core (O9): the interrupt controller and the other agents leave the core's own state alone, and a stuck core
makes no move of its own. -/

namespace Sys2Proof.Machine

/-! ### The interrupt controller -/

/-- From `s` to `t` only what the interrupt controller keeps, the devices and what the step shows have changed. -/
def State.Signalled (s t : State) : Prop :=
  ∃ i d h n l a b c e k o,
    t = { s with iif := i, dev := d, dmaHeld := h, nmiLast := n, iiofLast := l, ackPending := a, levelAck := b
                 raisePending := c, levelRaise := e, claimed := k, outputs := o }

theorem State.Signalled.refl (s : State) : s.Signalled s := ⟨_, _, _, _, _, _, _, _, _, _, _, rfl⟩

theorem State.Signalled.trans {s t u : State} (h : s.Signalled t) (g : t.Signalled u) : s.Signalled u := by
  obtain ⟨_, _, _, _, _, _, _, _, _, _, _, rfl⟩ := h
  obtain ⟨_, _, _, _, _, _, _, _, _, _, _, rfl⟩ := g
  exact ⟨_, _, _, _, _, _, _, _, _, _, _, rfl⟩

theorem State.look_signalled (s : State) : s.Signalled s.look := ⟨_, _, _, _, _, _, _, _, _, _, _, rfl⟩

theorem State.clearIiof_signalled (s : State) (x : Fin 4) : s.Signalled (s.clearIiof x) := by
  unfold State.clearIiof
  split
  · split
    · exact ⟨_, _, _, _, _, _, _, _, _, _, _, rfl⟩
    · exact ⟨_, _, _, _, _, _, _, _, _, _, _, rfl⟩
  · exact .refl s

theorem State.clearTimer_signalled (s : State) (n : Fin 2) : s.Signalled (s.clearTimer n) := by
  unfold State.clearTimer
  split
  · exact ⟨_, _, _, _, _, _, _, _, _, _, _, rfl⟩
  · exact .refl s

theorem State.forward_signalled (s : State) : s.Signalled s.forward := by
  unfold State.forward
  split
  · exact .refl s
  · have cleared : s.Signalled ((((((s.clearIiof 0).clearIiof 1).clearIiof 2).clearIiof 3).clearTimer 0).clearTimer 1) :=
      (((((s.clearIiof_signalled 0).trans (State.clearIiof_signalled _ 1)).trans (State.clearIiof_signalled _ 2)).trans
        (State.clearIiof_signalled _ 3)).trans (State.clearTimer_signalled _ 0)).trans (State.clearTimer_signalled _ 1)
    exact cleared.trans ⟨_, _, _, _, _, _, _, _, _, _, _, rfl⟩

/-! ### The moves of the other agents -/

theorem State.Accesses.phase {s t : State} {l as} (h : s.Accesses t l as) : t.phase = s.phase := by
  obtain ⟨_, _, _, _, _, _, _, rfl, -⟩ := h
  rfl

@[simp] theorem State.afterDma_phase (s : State) (c : Fin 6) (aux : Bool) (f : DmaChannel → DmaChannel × Bool) :
    (s.afterDma c aux f).phase = s.phase := by
  simp only [State.afterDma, apply_ite State.phase, ite_self]

theorem State.dmaAccess_phase {s t : State} {c : Fin 6} {op : DmaOp} {a : Word} (h : s.dmaAccess c op a = .ok () t) :
    t.phase = s.phase := by
  cases op with
  | load aux | fetch aux =>
    obtain ⟨_, u, read, rfl⟩ := Res.andThen_eq_ok h
    rw [State.afterDma_phase, (memRead_accesses read).phase]
  | store aux v =>
    obtain ⟨_, u, written, rfl⟩ := Res.andThen_eq_ok h
    rw [State.afterDma_phase, (memWrite_accesses written).phase]
  | install aux v =>
    unfold State.dmaAccess at h
    dsimp only at h
    split at h
    · cases h
    · cases h
      exact s.afterDma_phase _ _ _

theorem State.dmaTry_phase {s t : State} {c : Fin 6} {op : DmaOp} {a : Word} {g : Bool} (h : s.dmaTry c op a g = .ok () t) :
    t.phase = s.phase := by
  unfold State.dmaTry at h
  dsimp only at h
  split at h
  · rename_i made
    cases h
    exact (State.dmaAccess_phase made :)
  · cases h
    rfl
  · cases h
  · cases h

theorem State.dmaMove_phase {s t : State} (h : s.dmaMove = .ok () t) : t.phase = s.phase := by
  unfold State.dmaMove at h
  dsimp only at h
  split at h
  · exact (State.dmaTry_phase h :)
  · split at h
    · cases h
      rfl
    · exact (State.dmaTry_phase h :)

@[simp] theorem State.otherRead_phase (s : State) (a : Word) : (s.otherRead a).phase = s.phase := by
  unfold State.otherRead
  repeat' split
  all_goals rfl

@[simp] theorem State.otherWrite_phase (s : State) (a v : Word) : (s.otherWrite a v).phase = s.phase := by
  unfold State.otherWrite
  repeat' split
  all_goals rfl

@[simp] theorem State.clocked_phase (s : State) (f : Devices → Devices) : (s.clocked f).phase = s.phase := by
  simp only [State.clocked, State.withDev, apply_ite State.phase, ite_self]

theorem State.onDevice_phase {s : State} {k : Device} {f : State → State} (h : (f s).phase = s.phase) :
    (s.onDevice k f).phase = s.phase := by
  simp only [State.onDevice, apply_ite State.phase, h, ite_self]

theorem State.withDev_phase (s : State) (f : Devices → Devices) : (s.withDev f).phase = s.phase := rfl

theorem State.milMoved_phase (s : State) (x : MilMove) : (s.milMoved x).phase = s.phase := rfl

theorem State.milWord_phase (s : State) (c : Bool) : (s.milWord c).phase = s.phase := by
  unfold State.milWord
  split
  · rfl
  · rw [State.withDev_phase, State.milMoved_phase]

theorem State.milEnd_phase (s : State) (b : MilBus) : (s.milEnd b).phase = s.phase := by
  unfold State.milEnd
  split
  · rfl
  · split
    · rfl
    · rw [State.withDev_phase, State.milMoved_phase]

theorem State.milHear_phase (s : State) (g : MilMessage) : (s.milHear g).phase = s.phase := by
  unfold State.milHear
  split
  · rfl
  · rw [State.withDev_phase, State.milMoved_phase]

theorem State.milBurst_phase (s : State) : s.milBurst.phase = s.phase := by
  unfold State.milBurst
  split
  · exact s.milHear_phase _
  · rfl

/-- No move of another agent but a reset changes what the core is doing. -/
theorem State.move_phase {s t : State} {i : Input} (h : ∀ romen loc, i ≠ .reset romen loc) (e : s.move i = .ok () t) :
    t.phase = s.phase := by
  cases i with
  | reset romen loc => exact absurd rfl (h romen loc)
  | dma =>
    change (if s.phase = .idle2 then Res.ok () s else s.dmaMove) = _ at e
    split at e
    · cases e
      rfl
    · exact State.dmaMove_phase e
  | h1 | portReceive k v | portAsk k | portGrant k => cases e; exact s.clocked_phase _
  | tclk n level => cases e; exact s.clocked_phase _
  | externalWrite a v => cases e; split <;> rfl
  | portSend k => cases e; split <;> rfl
  | otherRead a => cases e; exact s.otherRead_phase a
  | otherWrite a v => cases e; exact s.otherWrite_phase a v
  | milWord c => cases e; exact State.onDevice_phase (s.milWord_phase c)
  | milController b => cases e; exact State.onDevice_phase (s.milEnd_phase b)
  | milBurst => cases e; exact State.onDevice_phase s.milBurst_phase
  | milMessage g =>
    cases e
    refine State.onDevice_phase ?_
    split
    · rfl
    · exact s.milHear_phase g
  | cpu | nmi level | iiof x level | romen level | busPins r0 r1 ae c0 c1 de | otherAcquire | otherRelease | otherRc v =>
    cases e; rfl
  | _ => cases e; exact State.onDevice_phase rfl

theorem State.agentTurn_phase {s t : State} {i : Input} (h : ∀ romen loc, i ≠ .reset romen loc)
    (e : s.agentTurn i = .next t) : t.phase = s.phase := by
  unfold State.agentTurn at e
  split at e
  · rename_i moved
    cases e
    exact State.move_phase h moved
  · cases e
    rfl
  · cases e
  · cases e

/-! ### A stuck core -/

/-- A stuck core takes no interrupt and makes no move of its own. -/
theorem State.cpuTurn_of_stuck {s : State} (phase : s.phase = .stuck) (entering : s.entering = none) :
    s.cpuTurn = .next s := by
  simp [State.cpuTurn, entering, State.taken, State.listening, phase, State.cpuMove]

theorem step_of_stuck {s : State} (phase : s.phase = .stuck) : step s = s.look.turn := by
  simp [step, State.sample, phase]

/-- The turn of a stuck core changes nothing but what the interrupt controller does in front of it. -/
theorem State.forward_cpuTurn_of_stuck {s : State} (phase : s.phase = .stuck) (entering : s.entering = none) :
    s.forward.cpuTurn = .next s.forward :=
  State.cpuTurn_of_stuck (s.forward_phase.trans phase) (s.forward_entering.trans entering)

/-- Whoever moves, a stuck core stays stuck until a reset. -/
theorem step_stuck {s t : State} (phase : s.phase = .stuck) (entering : s.entering = none)
    (noReset : ∀ (romen : Bool) (loc : BitVec 2) (rest : List Input), s.inputs ≠ .reset romen loc :: rest)
    (e : step s = .next t) : t.phase = .stuck := by
  rw [step_of_stuck phase] at e
  unfold State.turn at e
  split at e
  · rw [State.forward_cpuTurn_of_stuck (s := s.look) phase entering] at e
    cases e
    exact s.look.forward_phase.trans phase
  · rename_i rest _
    rw [State.forward_cpuTurn_of_stuck (s := { s.look with inputs := rest }) phase entering] at e
    cases e
    exact (State.forward_phase _).trans phase
  · rename_i i rest _ inputs
    refine (State.agentTurn_phase (fun romen loc reset => ?_) e).trans ((State.forward_phase _).trans phase)
    exact noReset romen loc rest (reset ▸ inputs)

/-- A fetched word that is no defined encoding leaves the core stuck (92 D41). -/
theorem State.cpuTurn_of_undefined {s t : State} {w : Word} {e : Reject} (phase : s.phase = .running)
    (entering : s.entering = none) (taken : s.taken = none) (fetched : s.fetchWord = .ok w t) (undefined : decode w = .error e) :
    s.cpuTurn = .next { t with phase := .stuck } := by
  simp only [State.cpuTurn, entering, taken, State.cpuMove, phase, State.runMove, fetched, undefined]

end Sys2Proof.Machine

open Sys2Proof Sys2Proof.Machine

/-- Settles O9: the step that sticks the core, SWI, and the steps of a stuck core. -/
theorem undefinedEncodingStops : Obligations.UndefinedEncodingStops := by
  refine ⟨?_, by decide, by decide, fun _ => rfl, ?_, fun _ _ => step_stuck⟩
  · intro s t w e agenda phase entering taken fetched undefined
    have sampled := State.sample_of_running phase
    have turn : step s = s.sample.forward.cpuTurn := by
      rw [step, State.turn, sampled, show s.look.inputs = [] from agenda]
    rw [turn]
    refine State.cpuTurn_of_undefined ?_ ?_ taken fetched undefined
    · rw [State.forward_phase, sampled]
      exact phase
    · rw [State.forward_entering, sampled]
      exact entering
  · intro s phase entering agenda
    have turn : step s = .next s.look.forward := by
      rw [step_of_stuck phase, State.turn, show s.look.inputs = [] from agenda]
      exact State.forward_cpuTurn_of_stuck phase entering
    refine ⟨_, turn, ?_⟩
    obtain ⟨_, _, _, _, _, _, _, _, _, _, _, same⟩ := s.look_signalled.trans s.look.forward_signalled
    rw [same]
    refine ⟨phase, entering, ?_⟩
    and_intros <;> rfl
end

section
/-! PROOFS. The condition codes (O4). -/

open Sys2Proof Sys2Proof.Machine

/-- Settles O4: each condition as the flags it names, then the codes left out. -/
theorem conditionCodes : Obligations.ConditionCodes := by
  intro s
  have undefined : ∀ c : BitVec 5, c = 0b01011 ∨ 0b10101 ≤ c.toNat → condOfCode c = .error .undefinedCondition := by decide
  and_intros
  on_goal -1 => exact undefined
  all_goals rfl
end

section
/-! PROOFS. The branches without slots (O41). -/

namespace Sys2Proof.Machine

/-- BR goes to its target (43 R365). -/
theorem exec_br (s : State) (d : BitVec 24) : exec (.br d) s = .next (s.sequenced.jump (target24 s.pc 1 d)) := rfl

/-- Bcond goes to its target where its condition is true, else on (43 R361). -/
theorem exec_bCond (s : State) (c : Cond) (a : Target) : exec (.bCond c a) s =
    .next (if s.sequenced.cond c then s.sequenced.jump (s.sequenced.target s.pc 1 a) else s.sequenced) := rfl

end Sys2Proof.Machine

open Sys2Proof Sys2Proof.Machine

/-- Settles O41: BR, then Bcond with either value of its condition, to a relative target and to a register. -/
theorem branches : Obligations.Branches := by
  intro s c r d e
  refine ⟨exec_br s e, fun taken => ?_, fun passed => ?_⟩
  · simp only [exec_bCond, taken, if_true]
    exact ⟨rfl, rfl⟩
  · simp [exec_bCond, passed]
end

section
/-! PROOFS. What the decoder accepts is well formed (O2): no row of the decoder but those of LDA, LDI and the floating-point
three-operand instructions can name an ill-formed term. -/

namespace Sys2Proof

/-- What a part of the decoder accepts has a property. -/
def Accepts {α : Type} (p : α → Prop) (x : Except Reject α) : Prop := ∀ a, x = .ok a → p a

namespace Accepts

variable {α β : Type} {p : β → Prop}

theorem ok {b : β} (h : p b) : Accepts p (.ok b) := fun c e => by
  cases e
  exact h

theorem error (e : Reject) : Accepts p (.error e) := fun _ h => by cases h

/-- What follows an accepted field may use what is known of the field. -/
theorem bind_of {q : α → Prop} {x : Except Reject α} {f : α → Except Reject β} (hx : Accepts q x)
    (h : ∀ a, q a → Accepts p (f a)) : Accepts p (x >>= f) := by
  cases x with
  | ok a => exact h a (hx a rfl)
  | error e => exact error e

theorem bind {x : Except Reject α} {f : α → Except Reject β} (h : ∀ a, Accepts p (f a)) : Accepts p (x >>= f) :=
  bind_of (q := fun _ => True) (fun _ _ => trivial) fun a _ => h a

end Accepts

open Accepts (ok error bind bind_of)

/-- A part of the decoder accepts only well-formed instructions. -/
abbrev AcceptsWellFormed (x : Except Reject Instr) : Prop := Accepts (fun i => i.wellFormed = true) x

/-! ### Operand fields -/

theorem regOfCode_eq_dp {d : BitVec 5} (h : regOfCode d = .dp) : d = 0x10#5 := by
  revert d
  decide

theorem notLdp_of_ne {d : Reg} (h : d ≠ .dp) (o : Src Reg) : notLdp d o = true := by
  unfold notLdp
  split
  · exact absurd rfl h
  · rfl

/-- An immediate source operand has the G field 11, and the word of LDI with one and dst = DP is that of LDP (40 R229). -/
theorem srcOfField_notLdp {d : BitVec 5} {g : BitVec 2} (s : BitVec 16) (h : ¬(g = 3#2 ∧ d = 0x10#5)) :
    Accepts (fun o => notLdp (regOfCode d) o = true) (srcOfField anyReg g s) := by
  by_cases dp : regOfCode d = .dp
  · have g3 : ∀ g : BitVec 2, g.toNat ≠ 0 → g.toNat ≠ 1 → g.toNat ≠ 2 → g = 3#2 := by decide
    rw [dp]
    unfold srcOfField
    split
    · exact bind fun _ => ok rfl
    · exact ok rfl
    · exact bind fun _ => ok rfl
    · exact absurd ⟨g3 g ‹_› ‹_› ‹_›, regOfCode_eq_dp dp⟩ h
  · exact fun o _ => notLdp_of_ne dp o

/-- Without immediate forms a three-operand field is no immediate (30 R179). -/
theorem triOfFields_noImmediate {ρ : Type} (dec : BitVec 5 → Except Reject ρ) (ty : BitVec 1) (t : BitVec 2)
    (a b : BitVec 8) : Accepts (fun o => noImmediate o = true) (triOfFields dec false ty t a b) := by
  unfold triOfFields
  split
  all_goals repeat' first | exact error _ | exact ok rfl | refine bind fun _ => ?_

/-! ### The decoder, class by class

A row is a sequence of checked fields, which end in an instruction or a refusal: `bind` for a field, `ok` and `error` for the
ends. Only the rows named in a proof need more than the constructor of their instruction. -/

theorem decodeUniform_wellFormed (op : BitVec 6) (g : BitVec 2) (d : BitVec 5) (s : BitVec 16) :
    AcceptsWellFormed (decodeUniform op g d s) := by
  unfold decodeUniform
  split
  all_goals repeat' first | exact error _ | exact ok rfl | refine bind fun _ => ?_

theorem decodeGeneral_wellFormed (w : Word) : AcceptsWellFormed (decodeGeneral w) := by
  unfold decodeGeneral
  dsimp only
  split
  -- LDP and LDI
  case h_3 =>
    split
    · exact ok rfl
    · exact bind_of (srcOfField_notLdp _ ‹_›) fun _ notLdp => ok notLdp
  -- LDA
  case h_22 =>
    split
    · exact bind fun o => ok ‹_›
    · exact error _
  case h_25 => exact decodeUniform_wellFormed _ _ _ _
  all_goals repeat' first | exact error _ | exact ok rfl | refine bind fun _ => ?_ | split

theorem decodeTri_wellFormed (w : Word) : AcceptsWellFormed (decodeTri w) := by
  unfold decodeTri
  dsimp only
  split
  -- ADDF3, CMPF3, MPYF3 and SUBF3
  case h_2 | h_7 | h_10 | h_14 =>
    exact bind fun _ => bind_of (triOfFields_noImmediate _ _ _ _ _) fun _ noImmediate => ok noImmediate
  all_goals repeat' first | exact error _ | exact ok rfl | refine bind fun _ => ?_

theorem decodeCondLoad_wellFormed (w : Word) : AcceptsWellFormed (decodeCondLoad w) := by
  refine bind fun c => ?_
  split
  · exact bind fun _ => bind fun _ => ok rfl
  · exact bind fun _ => ok rfl

theorem decodeLong_wellFormed (w : Word) : AcceptsWellFormed (decodeLong w) := by
  unfold decodeLong
  split
  all_goals repeat' first | exact error _ | exact ok rfl | split

theorem decodeBranch_wellFormed (w : Word) : AcceptsWellFormed (decodeBranch w) := by
  refine bind fun t => bind fun c => ?_
  split
  · split <;> exact ok rfl
  · split
    all_goals first | exact error _ | exact ok rfl

theorem decodeCall_wellFormed (w : Word) : AcceptsWellFormed (decodeCall w) := by
  refine bind fun t => bind fun c => ?_
  split
  all_goals first | exact error _ | exact ok rfl

theorem decodeTrap_wellFormed (w : Word) : AcceptsWellFormed (decodeTrap w) := by
  unfold decodeTrap
  split
  all_goals repeat' first | exact error _ | exact ok rfl | refine bind fun _ => ?_

theorem decodeReturn_wellFormed (w : Word) : AcceptsWellFormed (decodeReturn w) := by
  unfold decodeReturn
  split
  all_goals repeat' first | exact error _ | exact ok rfl | refine bind fun _ => ?_

theorem decodeControl_wellFormed (w : Word) : AcceptsWellFormed (decodeControl w) := by
  unfold decodeControl
  split
  · exact decodeLong_wellFormed w
  · exact decodeBranch_wellFormed w
  · split
    · exact decodeCall_wellFormed w
    · exact decodeTrap_wellFormed w
  · exact decodeReturn_wellFormed w

theorem decodeMulAdd_wellFormed (w : Word) : AcceptsWellFormed (decodeMulAdd w) := by
  refine bind fun i => bind fun j => ?_
  dsimp only
  split
  all_goals first | exact error _ | exact ok rfl

theorem decodeByte_wellFormed (w : Word) : AcceptsWellFormed (decodeByte w) := by
  refine bind fun s => ?_
  dsimp only
  split
  all_goals repeat' first | exact error _ | exact ok rfl | split

theorem decodeParallel_wellFormed (w : Word) : AcceptsWellFormed (decodeParallel w) := by
  refine bind fun e => bind fun b => ?_
  dsimp only
  split
  all_goals repeat' first | exact error _ | exact ok rfl | refine bind fun _ => ?_

theorem decode_wellFormed (w : Word) : AcceptsWellFormed (decode w) := by
  unfold decode
  split
  · exact decodeGeneral_wellFormed w
  · exact decodeTri_wellFormed w
  · exact decodeCondLoad_wellFormed w
  · exact decodeControl_wellFormed w
  · exact decodeMulAdd_wellFormed w
  · exact decodeByte_wellFormed w
  · exact decodeParallel_wellFormed w

end Sys2Proof

/-- Settles O2: class by class, every row of the decoder names only well-formed instructions. -/
theorem decodedIsWellFormed : Obligations.DecodedIsWellFormed := Sys2Proof.decode_wellFormed
end

section
/-! PROOFS. The register frame (O13), beside those of O14 and O16. -/

open Sys2Proof Sys2Proof.Machine

/-- Settles O13: the registers in the effect of an instruction; its sequencing touches RC alone. -/
theorem registerFrame : Obligations.RegisterFrame := by
  intro i s u r h hr hst hrc
  refine (exec_effect h).regs r ?_ hst
  rw [List.mem_append, State.mem_repeatRegs]
  rintro (listed | ⟨mode, rfl⟩)
  · exact hr listed
  · rw [hrc rfl] at mode
    cases mode
end

section
/-! PROOFS. Addresses (O17, O18, O21), and the two sums of their own that the modes need: the circular one (O19) and the one
with reverse carry (O20). -/

namespace Sys2Proof.Machine

/-! ### Reverse carry (40 R216) -/

theorem reverseBits_getLsbD (v : Word) {i : Nat} (h : i < 32) : (reverseBits v).getLsbD i = v.getLsbD (31 - i) := by
  have inner : 31 - i < 32 := by omega
  simp [reverseBits, h, inner]

theorem reverseBits_reverseBits (v : Word) : reverseBits (reverseBits v) = v := by
  refine BitVec.eq_of_getLsbD_eq fun i hi => ?_
  rw [reverseBits_getLsbD _ hi, reverseBits_getLsbD _ (by omega), show 31 - (31 - i) = i by omega]

/-- The carry of a reverse-carry sum into bit `i`: that of the sum of the reversed words into bit 31 − i. -/
def reverseCarry (a b : Word) (i : Nat) : Bool := BitVec.carry (31 - i) (reverseBits a) (reverseBits b) false

theorem reverseCarry_top (a b : Word) : reverseCarry a b 31 = false := BitVec.carry_zero

/-- The carry into a bit is the majority of the bit above it and the carry into that. -/
theorem reverseCarry_lower (a b : Word) {i : Nat} (h : i < 31) : reverseCarry a b i =
    (a.getLsbD (i + 1) && b.getLsbD (i + 1) || a.getLsbD (i + 1) && reverseCarry a b (i + 1)
      || b.getLsbD (i + 1) && reverseCarry a b (i + 1)) := by
  have above : 31 - i = 31 - (i + 1) + 1 := by omega
  have back : 31 - (31 - (i + 1)) = i + 1 := by omega
  rw [reverseCarry, above, BitVec.carry_succ, reverseBits_getLsbD _ (by omega), reverseBits_getLsbD _ (by omega), back]
  rfl

theorem reverseAdd_getLsbD (a b : Word) {i : Nat} (h : i < 32) :
    (reverseAdd a b).getLsbD i = (a.getLsbD i ^^ b.getLsbD i ^^ reverseCarry a b i) := by
  have back : 31 - (31 - i) = i := by omega
  rw [reverseAdd, reverseBits_getLsbD _ h, BitVec.getLsbD_add (by omega), reverseBits_getLsbD _ (by omega),
    reverseBits_getLsbD _ (by omega), back, reverseCarry, Bool.xor_assoc]

theorem reverseAdd_zero (a : Word) : reverseAdd a 0 = a := by
  have zero : reverseBits 0 = 0#32 := by decide
  rw [reverseAdd, zero, BitVec.add_zero, reverseBits_reverseBits]

/-! ### Circular addressing (40 R215) -/

/-- The block of a buffer is the power of two above its length. -/
theorem blockTop_eq {bk : Word} {k : Nat} (small : bk.toNat < 2 ^ 16) (low : 2 ^ k ≤ bk.toNat) (high : bk.toNat < 2 ^ (k + 1)) :
    blockTop bk = some k := by
  have size : bits bk 0 16 = bk.toNat := by
    rw [bits, BitVec.extractLsb'_toNat, Nat.shiftRight_zero, Nat.mod_eq_of_lt small]
  have nonzero : bk.toNat ≠ 0 := by
    have := Nat.two_pow_pos k
    omega
  rw [blockTop, size, if_neg nonzero, (Nat.log2_eq_iff nonzero).2 ⟨low, high⟩]

/-- The index after a step no longer than the buffer, taken back into it once, is the sum modulo its length. -/
theorem wrapped_eq_emod {index step size : Int} (h0 : 0 ≤ index) (h1 : index < size) (h2 : -size ≤ step) (h3 : step ≤ size) :
    (if 0 ≤ index + step ∧ index + step < size then index + step
      else if size ≤ index + step then index + step - size else index + step + size) = (index + step) % size := by
  split
  · rename_i inside
    exact (Int.emod_eq_of_lt inside.1 inside.2).symm
  · split
    · rw [← Int.sub_emod_right, Int.emod_eq_of_lt (by omega) (by omega)]
    · rw [← Int.add_emod_right, Int.emod_eq_of_lt (by omega) (by omega)]

/-- A word whose low bits are cleared. -/
theorem toNat_clearLow (a : Word) (n : Nat) : (a >>> n <<< n).toNat = 2 ^ n * (a.toNat / 2 ^ n) := by
  have le : a.toNat / 2 ^ n * 2 ^ n ≤ a.toNat := Nat.div_mul_le_self _ _
  rw [BitVec.toNat_shiftLeft, BitVec.toNat_ushiftRight, Nat.shiftRight_eq_div_pow, Nat.shiftLeft_eq,
    Nat.mod_eq_of_lt (by omega), Nat.mul_comm]

/-- A circular step keeps the bits above the block and puts the wrapped index below them. -/
theorem circular_toNat (draw : Nat) {a bk : Word} {step : Int} {k : Nat} (small : bk.toNat < 2 ^ 16)
    (low : 2 ^ k ≤ bk.toNat) (high : bk.toNat < 2 ^ (k + 1)) (inside : a.toNat % 2 ^ (k + 1) < bk.toNat)
    (h2 : -(bk.toNat : Int) ≤ step) (h3 : step ≤ bk.toNat) :
    ∃ r : Nat, (r : Int) = ((a.toNat % 2 ^ (k + 1) : Nat) + step) % bk.toNat ∧ r < 2 ^ (k + 1)
      ∧ (circular draw a bk step).toNat = 2 ^ (k + 1) * (a.toNat / 2 ^ (k + 1)) + r := by
  have index : bits a 0 (k + 1) = a.toNat % 2 ^ (k + 1) := by simp [bits, BitVec.extractLsb'_toNat]
  have positive : (0 : Int) < bk.toNat := by omega
  obtain ⟨r, hr⟩ := Int.eq_ofNat_of_zero_le (Int.emod_nonneg ((a.toNat % 2 ^ (k + 1) : Nat) + step) positive.ne')
  have below : r < bk.toNat := by
    have := Int.emod_lt_of_pos ((a.toNat % 2 ^ (k + 1) : Nat) + step) positive
    omega
  refine ⟨r, hr.symm, by omega, ?_⟩
  simp only [circular, blockTop_eq small low high, index]
  rw [wrapped_eq_emod (by omega) (by omega) h2 h3, hr, BitVec.ofInt_natCast, BitVec.toNat_or, toNat_clearLow,
    BitVec.toNat_ofNat, Nat.mod_eq_of_lt (by omega), ← Nat.two_pow_add_eq_or_of_lt (by omega)]

/-! ### Auxiliary registers after a write-back -/

theorem State.writeBack_ar_same (s : State) (n : Fin 8) (v : Option Word) :
    (s.writeBack n v).ar[n] = v.getD s.ar[n] := by
  cases v <;> simp [State.writeBack]

theorem State.writeBack_ar_ne (s : State) {n k : Fin 8} (h : k ≠ n) (v : Option Word) :
    (s.writeBack n v).ar[k] = s.ar[k] := by
  cases v with
  | none => rfl
  | some v => simp [State.writeBack, Vector.getElem_set_ne, Fin.val_ne_of_ne h.symm]

theorem State.indUpdate_ar_same (s : State) (i : Ind) (d : Word) :
    (s.indUpdate i d).ar[i.n] = (s.indNew i d).getD s.ar[i.n] := s.writeBack_ar_same _ _

/-- The operand in bits 15–8 is written back last. -/
theorem State.indUpdate2_ar_hi (s : State) (hi lo : Ind) {v : Word} (h : s.indNew hi implied = some v) :
    (s.indUpdate2 hi lo).ar[hi.n] = v := by
  rw [State.indUpdate2, State.writeBack_ar_same, h, Option.getD_some]

/-- A register that the operand in bits 15–8 does not write back has what the other one leaves. -/
theorem State.indUpdate2_ar_lo (s : State) (hi lo : Ind) {n : Fin 8} (h : n ≠ hi.n ∨ s.indNew hi implied = none) :
    (s.indUpdate2 hi lo).ar[n] = (s.writeBack lo.n (s.indNew lo implied)).ar[n] := by
  rw [State.indUpdate2]
  rcases h with other | kept
  · exact State.writeBack_ar_ne _ other _
  · rw [kept]
    rfl

end Sys2Proof.Machine

open Sys2Proof Sys2Proof.Machine

/-- Settles O17: the two halves of a direct address. -/
theorem directAddress : Obligations.DirectAddress := by
  refine fun s e => ⟨BitVec.eq_of_getLsbD_eq fun i hi => ?_, rfl⟩
  rw [State.memAddr, State.direct, BitVec.getLsbD_append]
  by_cases low : i < 16
  · simp [low, hi]
  · simp [low, hi, BitVec.getLsbD_of_ge e i (by omega)]

/-- Settles O18: mode by mode, what is added to ARn and what is written back. -/
theorem indirectModes : Obligations.IndirectModes := by
  intro s n ix disp
  have after : ∀ m, (s.indUpdate ⟨m, n⟩ disp).ar[n] = (s.indNew ⟨m, n⟩ disp).getD s.ar[n] := fun m =>
    s.indUpdate_ar_same ⟨m, n⟩ disp
  exact ⟨⟨rfl, after _⟩, ⟨rfl, after _⟩, ⟨rfl, after _⟩, ⟨rfl, after _⟩, ⟨rfl, after _⟩, ⟨rfl, after _⟩, ⟨rfl, after _⟩,
    ⟨rfl, after _⟩, ⟨rfl, after _⟩, ⟨rfl, after _⟩⟩

/-- Settles O19: the quotient and the remainder of the new register by the block. -/
theorem circularStaysInBuffer : Obligations.CircularStaysInBuffer := by
  intro draw a bk step k size small low high inside h2 h3
  obtain ⟨r, index, below, word⟩ := circular_toNat draw small low high inside h2 h3
  rw [word, ← index]
  refine ⟨?_, ?_⟩
  · rw [Nat.mul_add_div (Nat.two_pow_pos _), Nat.div_eq_of_lt below, Nat.add_zero]
  · have remainder : (2 ^ (k + 1) * (a.toNat / 2 ^ (k + 1)) + r) % 2 ^ (k + 1) = r := by
      rw [Nat.mul_add_mod, Nat.mod_eq_of_lt below]
    exact_mod_cast remainder

/-- Settles O20: the carries of the sum of the reversed words. -/
theorem reverseCarrySum : Obligations.ReverseCarrySum :=
  ⟨reverseCarry, reverseCarry_top, fun a b _ => reverseCarry_lower a b, fun a b _ => reverseAdd_getLsbD a b, reverseAdd_zero⟩

/-- Settles O21: the two write-backs in their order, then the two reads. -/
theorem twoIndirectOperands : Obligations.TwoIndirectOperands := by
  intro s hi lo
  refine ⟨fun v => s.indUpdate2_ar_hi hi lo, fun v h other => ?_, fun n other kept => ?_, fun x y t ramHi ramLo read => ?_⟩
  · rw [s.indUpdate2_ar_lo hi lo (other.symm.imp_left Ne.symm), State.writeBack_ar_same, h, Option.getD_some]
  · rw [s.indUpdate2_ar_lo hi lo other]
    rcases kept with other | kept
    · exact State.writeBack_ar_ne _ other _
    · rw [kept]
      rfl
  · have pins : (s.indUpdate2 hi lo).pins = s.pins := by simp
    rw [← pins] at ramHi ramLo
    rw [State.fetchInd2, memRead_ram ramHi, Res.bind_ok, memRead_ram ramLo, Res.bind_ok, State.indUpdate2_mem] at read
    cases read
    exact ⟨rfl, rfl, rfl⟩
end

section
/-! PROOFS. The source operand of the general group (O22). -/

namespace Sys2Proof.Machine

/-- The bits of ST that 10 R29 defines read as they are held. -/
theorem State.get_st_defined (s : State) {b : Nat} (h : b < 16 ∨ b = 18 ∨ b = 19) :
    (s.get .st).getLsbD b = s.st.getLsbD b := by
  have defined : ∀ b : Fin 20, b.val < 16 ∨ b.val = 18 ∨ b.val = 19 → stFree.getLsbD b = false := by decide
  change s.readSt.getLsbD b = _
  rw [State.readSt, merge_getLsbD, defined ⟨b, by omega⟩ h, if_neg Bool.false_ne_true]

/-- IIF but for its FLAG bits reads as it is held. -/
theorem State.get_iif_of_not_flag (s : State) {b : Nat} (h : b ∉ [2, 6, 10, 14]) :
    (s.get .iif).getLsbD b = s.iif.getLsbD b := by
  simp only [List.mem_cons, List.not_mem_nil, or_false, not_or] at h
  obtain ⟨h2, h6, h10, h14⟩ := h
  change s.readIif.getLsbD b = _
  simp only [State.readIif]
  rw [putBit_getLsbD _ _ _ _ (by decide), putBit_getLsbD _ _ _ _ (by decide), putBit_getLsbD _ _ _ _ (by decide),
    putBit_getLsbD _ _ _ _ (by decide), if_neg h14, if_neg h10, if_neg h6, if_neg h2]

/-- A register that can be loaded early reads as the value loaded, else as it is held. -/
theorem State.get_of_ldaDestination (s : State) {r : Reg} (h : ldaDestination r = true) :
    s.get r = s.newest r ((s.stored r).setWidth 32) := by
  have narrow : ∀ v : Word, (v.setWidth 40).setWidth 32 = v := fun v => by simp
  cases r with
  | dp => exact congrArg (s.newest .dp) (by simp [State.stored])
  | ar n | ir0 | ir1 | bk | sp => exact congrArg (s.newest _) (narrow _).symm
  | r n | st | die | iie | iif | rs | re | rc => cases h

/-- A memory operand in on-chip RAM is the word there, and its auxiliary register is updated. -/
theorem State.fetch_ram {s : State} {m : Mem} (h : region s.pins.romen (s.memAddr m) = .ram) (k : Access) :
    s.fetch k m = .ok (Memory.readWord s.mem (s.memAddr m)) (s.memUpdate m) := by
  have pins : (s.memUpdate m).pins = s.pins := by simp
  rw [State.fetch, memRead_ram (by rw [pins]; exact h), State.memUpdate_mem]

/-- A source operand in memory is fetched first. -/
theorem State.source_mem {ρ α : Type} {s u : State} {m : Mem} {w : Word} (h : s.fetch .plain m = .ok w u) (reg : ρ → α)
    (word : Word → α) (imm : BitVec 16 → α) : s.source reg word imm (.mem m) = .ok (word w) u := by
  rw [State.source, h, Res.bind_ok]

end Sys2Proof.Machine

open Sys2Proof Sys2Proof.Machine

/-- Settles O22: registers one by one, then the forms of the operand. -/
theorem generalSource : Obligations.GeneralSource := by
  intro s
  refine ⟨fun r => ⟨rfl, rfl⟩, fun n => rfl, fun held => ?_, rfl, rfl, rfl, rfl, rfl, fun b => s.get_st_defined,
    fun b => s.get_iif_of_not_flag, fun v => ⟨rfl, rfl⟩, fun n => rfl, fun v => rfl, fun m ram => ?_⟩
  · exact ⟨fun n => State.newest_of_none held _ _, State.newest_of_none held _ _, State.newest_of_none held _ _,
      State.newest_of_none held _ _, State.newest_of_none held _ _, State.newest_of_none held _ _⟩
  · have word := State.fetch_ram ram .plain
    exact ⟨State.source_mem word _ _ _, State.source_mem word _ _ _, State.source_mem word _ _ _⟩
end

section
/-! PROOFS. The load, store and stack instructions (O25, O26, O27, O30). -/

namespace Sys2Proof.Machine

/-! ### Values -/

theorem exponent_eq_zero_iff (x : Ext) : exponent x = -128 ↔ x.extractLsb' 32 8 = 0x80 :=
  BitVec.toInt_inj (y := (0x80 : BitVec 8))

/-- The flags of a value that is copied, by its sign and its exponent field. -/
theorem copyFlags_eq (x : Ext) : copyFlags x = (x,
    { v := false, uf := false, luf := false, c := none
      n := x.getLsbD 31 && decide (x.extractLsb' 32 8 ≠ 0x80), z := decide (x.extractLsb' 32 8 = 0x80) }) := by
  simp only [copyFlags, ne_eq, exponent_eq_zero_iff]

/-- LDHI puts its immediate into the upper half. -/
theorem append_zero_eq_shiftLeft (v : BitVec 16) : v ++ (0 : BitVec 16) = v.setWidth 32 <<< 16 := by
  refine BitVec.eq_of_getLsbD_eq fun i hi => ?_
  rw [BitVec.getLsbD_append]
  by_cases low : i < 16
  · simp [low]
  · simp [low, hi]

theorem withLow_short (x : Ext) (v : BitVec 16) :
    withLow x (v.extractLsb' 0 12 ++ (0 : BitVec 20)) = x.extractLsb' 32 8 ++ v.extractLsb' 0 12 ++ (0 : BitVec 20) := by
  rw [withLow, BitVec.append_assoc]
  rfl

/-! ### The meanings, where their access finishes -/

section
variable {s u : State}

theorem exec_lda {dst : Reg} {src : Src Reg} {x : Word} (h : src ≠ .reg dst) (read : s.sequenced.sourceInt src = .ok x u) :
    exec (.lda dst src) s = .next (u.put dst x) := by
  change execLda dst src s = _
  rw [execLda, if_neg h]
  exact State.run_of_ok (Res.andThen_of_ok read)

theorem exec_lda_same (dst : Reg) (s : State) : exec (.lda dst (.reg dst)) s = .fault .ldaSameRegister := by
  change execLda dst (.reg dst) s = _
  rw [execLda, if_pos rfl]

theorem exec_lde (dst : FReg) {src : Src FReg} {x : Ext} (read : s.sequenced.sourceFloat src = .ok x u) :
    exec (.lde dst src) s = .next (u.putF dst (x.extractLsb' 32 8
      ++ if exponent x = -128 then 0 else (u.getF dst).extractLsb' 0 32)) := by
  change execLde dst src s = _
  exact State.run_of_ok (Res.andThen_of_ok read)

theorem exec_ldf (dst : FReg) {src : Src FReg} {x : Ext} (read : s.sequenced.sourceFloat src = .ok x u) :
    exec (.ldf dst src) s = .next (u.resultF dst (copyFlags x)) := by
  change execLdf dst src s = _
  exact State.run_of_ok (Res.andThen_of_ok read)

theorem exec_ldfCond (c : Cond) (dst : FReg) {src : Src FReg} {x : Ext} (read : s.sequenced.sourceFloat src = .ok x u) :
    exec (.ldfCond c dst src) s = .next (if s.sequenced.cond c then u.putF dst x else u) := by
  change execLdfCond c dst src s = _
  exact State.run_of_ok (Res.andThen_of_ok read)

theorem exec_ldi (dst : Reg) {src : Src Reg} {x : Word} (read : s.sequenced.sourceInt src = .ok x u) :
    exec (.ldi dst src) s = .next (u.result dst (plainFlags x)) := by
  change execLdi dst src s = _
  exact State.run_of_ok (Res.andThen_of_ok read)

theorem exec_ldiCond (c : Cond) (dst : Reg) {src : Src Reg} {x : Word} (read : s.sequenced.sourceInt src = .ok x u) :
    exec (.ldiCond c dst src) s = .next (if s.sequenced.cond c then u.put dst x else u) := by
  change execLdiCond c dst src s = _
  exact State.run_of_ok (Res.andThen_of_ok read)

theorem exec_ldm (dst : FReg) {src : Src FReg} {x : Word} (read : s.sequenced.mantissaSource src = .ok x u) :
    exec (.ldm dst src) s = .next (u.putF dst (withLow (u.getF dst) x)) := by
  change execLdm dst src s = _
  exact State.run_of_ok (Res.andThen_of_ok read)

theorem exec_store {i : Instr} {m : Mem} {v : State → Word} (meaning : exec i s = s.run fun t => t.store .plain m (v t))
    (written : memWrite .plain (s.sequenced.memAddr m) (v s.sequenced) (s.sequenced.memUpdate m) = .ok () u) :
    exec i s = .next u := meaning.trans (State.run_of_ok written)

theorem State.pop_of_read {w : Word} (read : memRead .plain s.sp s = .ok w u) : s.pop = .ok w { u with sp := u.sp - 1 } := by
  rw [State.pop, read, Res.bind_ok]

theorem exec_pop (dst : Reg) {w : Word} (read : memRead .plain s.sequenced.sp s.sequenced = .ok w u) :
    exec (.pop dst) s = .next (({ u with sp := u.sp - 1 } : State).result dst (plainFlags w)) := by
  change execPop dst s = _
  exact State.run_of_ok (Res.andThen_of_ok (State.pop_of_read read))

theorem exec_popf (dst : FReg) {w : Word} (read : memRead .plain s.sequenced.sp s.sequenced = .ok w u) :
    exec (.popf dst) s = .next (({ u with sp := u.sp - 1 } : State).resultF dst (copyFlags (singleToExtended w))) := by
  change execPopf dst s = _
  exact State.run_of_ok (Res.andThen_of_ok (State.pop_of_read read))

end

/-! ### What an LDPK, LDP or LDA right behind has loaded already (70 R729) -/

/-- The next word in on-chip RAM is looked at as it stands there. -/
theorem State.peek_ram {s : State} {a : Word} (h : region s.pins.romen a = .ram) :
    s.peek a = some (Memory.readWord s.mem a) := by
  have inner : s.onBus a = false := by simp [State.onBus, h, Region.external]
  simp [State.peek, State.plainWord, inner, h]

section
variable {s : State} {i : Instr} (ram : region s.pins.romen s.sequenced.pc = .ram)
include ram

/-- LDPK and LDP have loaded DP. -/
theorem State.lookahead_dp {v : BitVec 16} (next : decode (Memory.readWord s.mem s.sequenced.pc) = .ok (.ldpk v)
    ∨ decode (Memory.readWord s.mem s.sequenced.pc) = .ok (.ldp v)) : s.lookahead i = some (.dp, v.setWidth 32) := by
  rcases next with next | next <;> simp only [State.lookahead, State.peek_ram ram, next] <;> rfl

/-- LDA has loaded its destination, where its value is there; DP has only sixteen bits. -/
theorem State.lookahead_lda {d : Reg} {o : Src Reg} {x : Word}
    (next : decode (Memory.readWord s.mem s.sequenced.pc) = .ok (.lda d o)) (hd : d ≠ .dp)
    (loaded : ({ s with early := none } : State).loadedEarly i d o = some x) : s.lookahead i = some (d, x) := by
  simp only [State.lookahead, State.peek_ram ram, next, loaded, Option.map_some, if_neg hd]

/-- Nothing else has loaded a register. -/
theorem State.lookahead_none (hldpk : ∀ v, decode (Memory.readWord s.mem s.sequenced.pc) ≠ .ok (.ldpk v))
    (hldp : ∀ v, decode (Memory.readWord s.mem s.sequenced.pc) ≠ .ok (.ldp v))
    (hlda : ∀ d o, decode (Memory.readWord s.mem s.sequenced.pc) ≠ .ok (.lda d o)) : s.lookahead i = none := by
  rw [State.lookahead, State.peek_ram ram]
  dsimp only
  split
  · exact absurd ‹_› (hldpk _)
  · exact absurd ‹_› (hldp _)
  · exact absurd ‹_› (hlda _ _)
  · rfl

end

theorem isLda_eq_false {i : Instr} (h : ∀ d o, i ≠ .lda d o) : isLda i = false := by
  cases i with
  | lda d o => exact absurd rfl (h d o)
  | _ => rfl

section
variable {s : State} {i : Instr} {d : Reg} (flow : standardFlow i = false) (lda : ∀ e o, i ≠ .lda e o)
include flow lda

/-- An immediate is there at once. -/
theorem State.loadedEarly_imm (v : BitVec 16) : s.loadedEarly i d (.imm v) = some (v.signExtend 32) := by
  have free : (s.busy.after i).hold (.lda d (.imm v)) = 0 := rfl
  simp [State.loadedEarly, flow, isLda_eq_false lda, free, sext16]

/-- Another operand is read behind the instruction in front, where that and the read do not wait. -/
theorem State.loadedEarly_of_read {o : Src Reg} {x : Word} {t u : State} (free : (s.busy.after i).hold (.lda d o) = 0)
    (hsettled : ∀ r, o = .reg r → settled i r = true) (done : exec i s = .next t) (ready : t.waiting = none)
    (read : t.sequenced.sourceInt o = .ok x u) : s.loadedEarly i d o = some x := by
  have behind : s.readBehind i o = some x := by simp [State.readBehind, done, ready, read]
  cases o with
  | imm v =>
    cases read
    exact State.loadedEarly_imm flow lda v
  | mem m => simp [State.loadedEarly, flow, isLda_eq_false lda, free, behind]
  | reg r => simp [State.loadedEarly, flow, isLda_eq_false lda, free, behind, hsettled r rfl]

end

end Sys2Proof.Machine

open Sys2Proof Sys2Proof.Machine

/-- Settles O25: LDI, LDP, whose operand is read already, and LDF. -/
theorem loadsWithFlags : Obligations.LoadsWithFlags := by
  refine fun s => ⟨fun dst src x u read => ?_, fun v => ?_, fun dst src x u read => ?_⟩
  · rw [← plainFlags_eq]
    exact exec_ldi dst read
  · rw [← plainFlags_eq]
    rfl
  · rw [← copyFlags_eq]
    exact exec_ldf dst read

/-- Settles O26: load by load, then what has been loaded early and how it reads. -/
theorem loadsWithoutFlags : Obligations.LoadsWithoutFlags := by
  intro s
  refine ⟨fun dst src x u differ read => exec_lda differ read, fun dst => exec_lda_same dst s, fun dst src x u read => ?_,
    fun dst n => exec_ldm dst rfl, fun dst m w u read => exec_ldm dst (State.source_mem read _ _ _), fun dst v => ?_,
    fun dst v => ?_, fun v => ?_, fun dst x => rfl, fun x src => rfl, fun c dst src x u read => exec_ldiCond c dst read,
    fun c dst src x u read => exec_ldfCond c dst read, fun i ram => ?_, fun d r v hr => ?_⟩
  · rw [exec_lde dst read]
    simp only [exponent_eq_zero_iff]
  · rw [exec_ldm dst (src := .imm v) rfl, withLow_short]
  · rw [← append_zero_eq_shiftLeft]
    rfl
  · have sixteen : (zext16 v).setWidth 16 = v := by simp [zext16]
    exact congrArg (fun dp => Host.Outcome.next { s.sequenced with dp := dp }) sixteen
  · refine ⟨fun v => State.lookahead_dp ram, fun d v next hd flow lda => ?_,
      fun d src t x u next hd flow lda free hsettled done ready read => ?_, State.lookahead_none ram⟩
    · exact State.lookahead_lda ram next hd (State.loadedEarly_imm flow lda v)
    · exact State.lookahead_lda ram next hd (State.loadedEarly_of_read flow lda free hsettled done ready read)
  · rw [State.get_of_ldaDestination _ hr, State.newest_of_some rfl]
    simp only [eq_comm]
    rfl

/-- Settles O27: the write of each store finishes the instruction. -/
theorem stores : Obligations.Stores := fun _ _ _ =>
  ⟨fun src => exec_store (v := fun t => t.get src) rfl, fun src => exec_store (v := fun t => extendedToSingle (t.getF src)) rfl,
    fun k => exec_store (v := fun _ => k.signExtend 32) rfl⟩

/-- Settles O30: the write of a push and the read of a pop finish the instruction. -/
theorem stack : Obligations.Stack := by
  intro s u
  refine ⟨fun src written => ?_, fun src written => ?_, fun dst w read => ?_, fun dst w read => ?_⟩
  · change execPush src s = _
    exact State.run_of_ok written
  · change execPushf src s = _
    exact State.run_of_ok written
  · rw [← plainFlags_eq]
    exact exec_pop dst read
  · rw [← copyFlags_single]
    exact exec_popf dst read
end

section
/-! PROOFS. Words written out from the encodings (O3), by the round trip of O1 and the two zero fields by evaluation. -/

namespace Sys2Proof

/-- A word that is the encoding of a well-formed instruction decodes to it. -/
theorem decode_of_encode {w : Word} {i : Instr} (h : encode i = w) (wf : i.wellFormed = true) :
    decode w = .ok i := h ▸ decode_encode wf

end Sys2Proof

open Sys2Proof Sys2Proof.Machine

/-- Settles O3: each word is an encoding; the other two have an undefined condition and a nonzero field. -/
theorem decodedWords : Obligations.DecodedWords :=
  ⟨decode_of_encode rfl rfl, decode_of_encode rfl rfl, decode_of_encode rfl rfl, decode_of_encode rfl rfl,
    decode_of_encode rfl rfl, decode_of_encode rfl rfl, rfl, rfl⟩
end

section
/-! PROOFS. The two-operand integer and logical instructions (O31, O32): each shape of a meaning once, where its operand is
read, and the value of each operation in the terms of the statements. -/

namespace Sys2Proof.Machine

/-! ### The shapes, where the operand is read -/

section
variable {s u : State} {i : Instr} {dst : Reg} {o : Src Reg} {x : Word} {r : Word × Flags}
  {source : State → Src Reg → Res Word} (read : source s.sequenced o = .ok x u)
include read

theorem exec_unary (op : State → Word → Word × Flags)
    (meaning : exec i s = s.run fun t => t.unary dst (source t o) (op t)) (value : op s.sequenced x = r) :
    exec i s = .next (u.result dst r) := by
  rw [meaning, ← value]
  exact State.run_of_ok (Res.andThen_of_ok read)

theorem exec_binary (op : State → Word → Word → Word × Flags)
    (meaning : exec i s = s.run fun t => t.binary dst (source t o) (op t))
    (value : op s.sequenced (s.sequenced.get dst) x = r) : exec i s = .next (u.result dst r) := by
  rw [meaning, ← value]
  exact State.run_of_ok (Res.andThen_of_ok read)

theorem exec_compare (op : State → Word → Word → Word × Flags)
    (meaning : exec i s = s.run fun t => t.compare dst (source t o) (op t))
    (value : op s.sequenced (s.sequenced.get dst) x = r) : exec i s = .next (u.setFlags r.2) := by
  rw [meaning, ← value]
  exact State.run_of_ok (Res.andThen_of_ok read)

end

/-! ### Sums, differences, products (41 R251) -/

theorem overflows_eq (r : Int) : overflows r = decide (r < -2147483648 ∨ 2147483647 < r) := by
  rw [overflows, Bool.decide_or]

theorem saturate_eq (ovm : Bool) (r : Int) : saturate ovm r = intValue ovm r := by
  simp only [saturate, intValue, overflows_eq, Bool.and_eq_true, decide_eq_true_eq]

theorem intResult_eq (ovm : Bool) (r : Int) (c : Option Bool) : intResult ovm r c = intOutcome ovm r c := by
  simp only [intResult, intOutcome, saturate_eq, overflows_eq, beq_eq_decide]

theorem intOfBool_eq (b : Bool) : intOfBool b = b.toNat := by cases b <;> rfl

theorem addInt_eq (ovm cin : Bool) (a b : Word) : addInt ovm cin a b =
    intOutcome ovm (a.toInt + b.toInt + cin.toNat) (some (decide (2 ^ 32 ≤ a.toNat + b.toNat + cin.toNat))) := by
  rw [addInt, intResult_eq, intOfBool_eq]

theorem addInt_false (ovm : Bool) (a b : Word) : addInt ovm false a b =
    intOutcome ovm (a.toInt + b.toInt) (some (decide (2 ^ 32 ≤ a.toNat + b.toNat))) := by
  simp [addInt_eq]

theorem subInt_eq (ovm bin : Bool) (a b : Word) : subInt ovm bin a b =
    intOutcome ovm (a.toInt - b.toInt - bin.toNat) (some (decide (a.toNat < b.toNat + bin.toNat))) := by
  rw [subInt, intResult_eq, intOfBool_eq]

theorem subInt_false (ovm : Bool) (a b : Word) : subInt ovm false a b =
    intOutcome ovm (a.toInt - b.toInt) (some (decide (a.toNat < b.toNat))) := by
  simp [subInt_eq]

/-- A negation is a difference from 0. -/
theorem subInt_zero (ovm bin : Bool) (b : Word) : subInt ovm bin 0 b =
    intOutcome ovm (-b.toInt - bin.toNat) (some (decide (0 < b.toNat + bin.toNat))) := by
  simp [subInt_eq]

theorem subInt_false_zero (ovm : Bool) (b : Word) : subInt ovm false 0 b =
    intOutcome ovm (-b.toInt) (some (decide (0 < b.toNat))) := by
  simp [subInt_eq]

theorem absInt_eq (ovm : Bool) (a : Word) : absInt ovm a =
    ((intOutcome ovm a.toInt.natAbs none).1, { (intOutcome ovm a.toInt.natAbs none).2 with n := false }) := by
  have magnitude : (if a.toInt < 0 then -a.toInt else a.toInt) = (a.toInt.natAbs : Int) := by split <;> omega
  rw [absInt, magnitude, intResult_eq]

theorem mulInt_eq (ovm : Bool) (a b : Word) : mulInt ovm a b = intOutcome ovm (a.toInt * b.toInt) none :=
  intResult_eq _ _ _

/-- A number modulo 2^64 cut to its upper half is its quotient by 2^32 modulo 2^32. -/
theorem extractHigh_ofInt (p : Int) : (BitVec.ofInt 64 p).extractLsb' 32 32 = BitVec.ofInt 32 (p / 2 ^ 32) := by
  refine BitVec.eq_of_toNat_eq ?_
  rw [BitVec.extractLsb'_toNat, BitVec.toNat_ofInt, BitVec.toNat_ofInt, Nat.shiftRight_eq_div_pow]
  omega

/-- A product of two signed words fits into 64 bits. -/
theorem product_bounds (a b : Word) : -2 ^ 62 ≤ a.toInt * b.toInt ∧ a.toInt * b.toInt ≤ 2 ^ 62 := by
  have ha : |a.toInt| ≤ 2 ^ 31 := by have := BitVec.le_toInt a; have := BitVec.toInt_lt (x := a); rw [abs_le]; omega
  have hb : |b.toInt| ≤ 2 ^ 31 := by have := BitVec.le_toInt b; have := BitVec.toInt_lt (x := b); rw [abs_le]; omega
  have product : |a.toInt * b.toInt| ≤ 2 ^ 31 * 2 ^ 31 := by
    rw [abs_mul]
    exact mul_le_mul ha hb (abs_nonneg _) (by decide)
  exact abs_le.1 (by simpa using product)

theorem mulHighSigned_eq (a b : Word) : mulHighSigned a b = (BitVec.ofInt 32 (a.toInt * b.toInt / 2 ^ 32),
    { v := false, uf := false, luf := false, c := none, n := decide (a.toInt * b.toInt < 0)
      z := decide (a.toInt * b.toInt = 0) }) := by
  obtain ⟨low, high⟩ := product_bounds a b
  have exact64 : (BitVec.ofInt 64 (a.toInt * b.toInt)).toInt = a.toInt * b.toInt :=
    BitVec.toInt_ofInt_eq_self (by decide) (by omega) (by omega)
  have zero : BitVec.ofInt 64 (a.toInt * b.toInt) = 0 ↔ a.toInt * b.toInt = 0 := by
    rw [← BitVec.toInt_inj, exact64, BitVec.ofNat_eq_ofNat, BitVec.toInt_zero]
  simp only [mulHighSigned, extractHigh_ofInt, BitVec.msb_eq_toInt, exact64, beq_eq_decide, zero]

theorem mulHighUnsigned_eq (a b : Word) : mulHighUnsigned a b = (BitVec.ofNat 32 (a.toNat * b.toNat / 2 ^ 32),
    { v := false, uf := false, luf := false, c := none, n := false, z := decide (a.toNat * b.toNat = 0) }) := by
  have small : a.toNat * b.toNat < 2 ^ 64 := by
    have := Nat.mul_lt_mul'' a.isLt b.isLt
    omega
  have high : (BitVec.ofNat 64 (a.toNat * b.toNat)).extractLsb' 32 32 = BitVec.ofNat 32 (a.toNat * b.toNat / 2 ^ 32) := by
    refine BitVec.eq_of_toNat_eq ?_
    rw [BitVec.extractLsb'_toNat, BitVec.toNat_ofNat, BitVec.toNat_ofNat, Nat.shiftRight_eq_div_pow, Nat.mod_eq_of_lt small]
  have zero : BitVec.ofNat 64 (a.toNat * b.toNat) = 0 ↔ a.toNat * b.toNat = 0 := by
    rw [← BitVec.toNat_inj, BitVec.toNat_ofNat, Nat.mod_eq_of_lt small]
    rfl
  simp only [mulHighUnsigned, high, beq_eq_decide, zero]

/-- One division step (41 R301): the doubled difference and a quotient bit where x fits into d, else d doubled. -/
theorem subcStep_eq (d x : Word) : subcStep d x =
    if x.toNat ≤ d.toNat then BitVec.ofNat 32 (2 * (d.toNat - x.toNat) + 1) else BitVec.ofNat 32 (2 * d.toNat) := by
  have doubled : ∀ w : Word, w <<< 1 = BitVec.ofNat 32 (2 * w.toNat) := fun w => BitVec.eq_of_toNat_eq (by
    rw [BitVec.toNat_shiftLeft, BitVec.toNat_ofNat, Nat.shiftLeft_eq, Nat.mul_comm, Nat.pow_one])
  unfold subcStep
  split
  · rename_i fits
    have apart : (d - x) <<< 1 &&& 1 = 0#32 := by
      refine BitVec.eq_of_getLsbD_eq fun j hj => ?_
      rcases j with _ | j <;> simp [BitVec.getLsbD_one]
    rw [← BitVec.add_eq_or_of_and_eq_zero _ _ apart, doubled, BitVec.toNat_sub_of_le (BitVec.le_def.2 fits)]
    exact (BitVec.ofNat_add _ _).symm
  · exact doubled d

end Sys2Proof.Machine

open Sys2Proof Sys2Proof.Machine

/-- Settles O31: instruction by instruction, the operand read and the value of its operation. -/
theorem integerArithmetic : Obligations.IntegerArithmetic := by
  intro s u dst src x read d o c
  refine ⟨?addi, ?addc, ?subi, ?subb, ?subri, ?subrb, ?negi, ?negb, ?absi, ?mpyi, ?mpyshi, ?subc, ?cmpi⟩
  case addi => exact exec_binary read (fun t => addInt t.ovm false) rfl (addInt_false _ _ _)
  case addc => exact exec_binary read (fun t => addInt t.ovm t.carry) rfl (addInt_eq _ _ _ _)
  case subi => exact exec_binary read (fun t => subInt t.ovm false) rfl (subInt_false _ _ _)
  case subb => exact exec_binary read (fun t => subInt t.ovm t.carry) rfl (subInt_eq _ _ _ _)
  case subri => exact exec_binary read (fun t d x => subInt t.ovm false x d) rfl (subInt_false _ _ _)
  case subrb => exact exec_binary read (fun t d x => subInt t.ovm t.carry x d) rfl (subInt_eq _ _ _ _)
  case negi => exact exec_unary read (fun t => subInt t.ovm false 0) rfl (subInt_false_zero _ _)
  case negb => exact exec_unary read (fun t => subInt t.ovm t.carry 0) rfl (subInt_zero _ _ _)
  case absi => exact exec_unary read (fun t => absInt t.ovm) rfl (absInt_eq _ _)
  case mpyi => exact exec_binary read (fun t => mulInt t.ovm) rfl (mulInt_eq _ _ _)
  case mpyshi => exact exec_binary read (fun _ => mulHighSigned) rfl (mulHighSigned_eq _ _)
  case subc =>
    change execSubc dst src s = _
    rw [← subcStep_eq]
    exact State.run_of_ok (Res.andThen_of_ok read)
  case cmpi => exact exec_compare read (fun _ => subInt false false) rfl (subInt_false _ _ _)

/-- Settles O32: instruction by instruction, as O31, with the operand of a logical instruction. -/
theorem logic : Obligations.Logic := by
  intro s u dst src x read d
  refine ⟨?and, ?andn, ?or, ?xor, ?not, ?tstb, ?mpyuhi⟩
  case and => exact exec_binary read (fun _ d x => plainFlags (d &&& x)) rfl (plainFlags_eq _)
  case andn => exact exec_binary read (fun _ d x => plainFlags (d &&& ~~~x)) rfl (plainFlags_eq _)
  case or => exact exec_binary read (fun _ d x => plainFlags (d ||| x)) rfl (plainFlags_eq _)
  case xor => exact exec_binary read (fun _ d x => plainFlags (d ^^^ x)) rfl (plainFlags_eq _)
  case not => exact exec_unary read (fun _ x => plainFlags (~~~x)) rfl (plainFlags_eq _)
  case tstb => exact exec_compare read (fun _ d x => plainFlags (d &&& x)) rfl (plainFlags_eq _)
  case mpyuhi => exact exec_binary read (fun _ => mulHighUnsigned) rfl (mulHighUnsigned_eq _ _)
end

section
/-! PROOFS. Shifts, rotates, and the byte and half-word instructions (O33, O34). -/

namespace Sys2Proof.Machine

/-! ### Shifts (41 R268, R274) -/

theorem shiftLeft_eq_ofNat (v : Word) (k : Nat) : v <<< k = BitVec.ofNat 32 (v.toNat * 2 ^ k) := by
  refine BitVec.eq_of_toNat_eq ?_
  rw [BitVec.toNat_shiftLeft, BitVec.toNat_ofNat, Nat.shiftLeft_eq]

theorem ushiftRight_eq_ofNat (v : Word) (k : Nat) : v >>> k = BitVec.ofNat 32 (v.toNat / 2 ^ k) := by
  have small : v.toNat / 2 ^ k < 2 ^ 32 := (Nat.div_le_self _ _).trans_lt v.isLt
  refine BitVec.eq_of_toNat_eq ?_
  rw [BitVec.toNat_ushiftRight, BitVec.toNat_ofNat, Nat.shiftRight_eq_div_pow, Nat.mod_eq_of_lt small]

theorem sshiftRight_eq_ofInt (v : Word) (k : Nat) : v.sshiftRight k = BitVec.ofInt 32 (v.toInt / 2 ^ k) := by
  rw [BitVec.sshiftRight, Int.shiftRight_eq_div_pow]
  norm_cast

/-- The carry beyond 32 places and within, in the order of the statement. -/
theorem ite_beyond (k : Nat) (beyond within : Bool) :
    (if 32 < k then beyond else within) = if k ≤ 32 then within else beyond := by
  simp only [← not_le, ite_not]

section
variable (v : Word) {count : Word} {k : Nat}

theorem ashInt_zero (h : shiftCount count = 0) : ashInt v count = plainOutcome v (some false) := by
  simp [ashInt, h, plainOutcome, beq_eq_decide]

theorem lshInt_zero (h : shiftCount count = 0) : lshInt v count = plainOutcome v (some false) := by
  simp [lshInt, h, plainOutcome, beq_eq_decide]

theorem ashInt_left (h : shiftCount count = k) (hk : 1 ≤ k) : ashInt v count = (BitVec.ofInt 32 (v.toInt * 2 ^ k),
    { (plainOutcome (BitVec.ofInt 32 (v.toInt * 2 ^ k)) (some (v.getLsbD (32 - k)))).2 with
      v := decide (v.toInt * 2 ^ k < -2147483648 ∨ 2147483647 < v.toInt * 2 ^ k) }) := by
  have left : (0 : Int) < k := by omega
  simp only [ashInt, h, left, if_true, Int.natAbs_natCast, overflows_eq, leftCarry, plainOutcome, beq_eq_decide]

theorem lshInt_left (h : shiftCount count = k) (hk : 1 ≤ k) :
    lshInt v count = plainOutcome (BitVec.ofNat 32 (v.toNat * 2 ^ k)) (some (v.getLsbD (32 - k))) := by
  have left : (0 : Int) < k := by omega
  simp only [lshInt, h, left, if_true, Int.natAbs_natCast, leftCarry, plainOutcome, beq_eq_decide, shiftLeft_eq_ofNat]

theorem ashInt_right (h : shiftCount count = -(k : Int)) (hk : 1 ≤ k) : ashInt v count =
    plainOutcome (BitVec.ofInt 32 (v.toInt / 2 ^ k)) (some (if k ≤ 32 then v.getLsbD (k - 1) else v.getLsbD 31)) := by
  have notLeft : ¬ (0 : Int) < -k := by omega
  have right : -(k : Int) < 0 := by omega
  simp only [ashInt, h, notLeft, right, if_true, if_false, Int.natAbs_neg, Int.natAbs_natCast, plainOutcome, beq_eq_decide,
    sshiftRight_eq_ofInt, ite_beyond, BitVec.msb_eq_getLsbD_last]

theorem lshInt_right (h : shiftCount count = -(k : Int)) (hk : 1 ≤ k) : lshInt v count =
    plainOutcome (BitVec.ofNat 32 (v.toNat / 2 ^ k)) (some (if k ≤ 32 then v.getLsbD (k - 1) else false)) := by
  have notLeft : ¬ (0 : Int) < -k := by omega
  have right : -(k : Int) < 0 := by omega
  simp only [lshInt, h, notLeft, right, if_true, if_false, Int.natAbs_neg, Int.natAbs_natCast, plainOutcome, beq_eq_decide,
    ushiftRight_eq_ofNat, ite_beyond]

end

/-! ### Rotates (41 R287–R289, R298) -/

/-- A rotate left puts the word above the bit that enters. -/
theorem rotateLeft_eq (v : Word) (b : Bool) :
    rotateLeft v b = plainOutcome ((v <<< 1) ||| (BitVec.ofBool b).setWidth 32) (some v.msb) := by
  have word : v.extractLsb' 0 31 ++ BitVec.ofBool b = (v <<< 1) ||| (BitVec.ofBool b).setWidth 32 := by
    refine BitVec.eq_of_getLsbD_eq fun j hj => ?_
    rw [BitVec.getLsbD_append]
    rcases j with _ | j
    · simp
    · have inner : j < 31 := by omega
      have next : j + 1 < 32 := by omega
      simp [inner, next, BitVec.getLsbD_eq_getElem (x := v) (i := j) (by omega)]
  simp only [rotateLeft, word, plainOutcome, beq_eq_decide]

/-- A rotate right puts the bit that enters above the word. -/
theorem rotateRight_eq (v : Word) (b : Bool) :
    rotateRight v b = plainOutcome ((v >>> 1) ||| ((BitVec.ofBool b).setWidth 32 <<< 31)) (some (v.getLsbD 0)) := by
  have word : BitVec.ofBool b ++ v.extractLsb' 1 31 = (v >>> 1) ||| ((BitVec.ofBool b).setWidth 32 <<< 31) := by
    refine BitVec.eq_of_getLsbD_eq fun j hj => ?_
    rw [BitVec.getLsbD_append]
    by_cases inner : j < 31
    · simp [inner, show j < 32 by omega]
    · obtain rfl : j = 31 := by omega
      simp
  simp only [rotateRight, word, plainOutcome, beq_eq_decide]

theorem rotateLeft_one (v : Word) : v.rotateLeft 1 = (v <<< 1) ||| (BitVec.ofBool v.msb).setWidth 32 := by
  refine BitVec.eq_of_getLsbD_eq fun j hj => ?_
  rcases j with _ | j
  · simp [BitVec.msb_eq_getLsbD_last]
  · simp [hj]

theorem rotateRight_one (v : Word) :
    v.rotateRight 1 = (v >>> 1) ||| ((BitVec.ofBool (v.getLsbD 0)).setWidth 32 <<< 31) := by
  refine BitVec.eq_of_getLsbD_eq fun j hj => ?_
  by_cases inner : j < 31
  · have next : 1 + j < 32 := by omega
    simp [inner, hj, next]
  · obtain rfl : j = 31 := by omega
    simp

/-! ### Bytes and half-words (41 R290–R297) -/

theorem byteOf_eq (x : Word) (b : BitVec 2) : byteOf x b = (x >>> (8 * b.toNat)).setWidth 8 := by
  refine BitVec.eq_of_getLsbD_eq fun j hj => ?_
  simp [byteOf, hj]

theorem halfOf_eq (x : Word) (h : BitVec 1) : halfOf x h = (x >>> (16 * h.toNat)).setWidth 16 := by
  refine BitVec.eq_of_getLsbD_eq fun j hj => ?_
  simp [halfOf, hj]

theorem unsignedFlags_eq (w : Word) : unsignedFlags w = (w, { (plainOutcome w none).2 with n := false }) := by
  simp [unsignedFlags, plainOutcome, beq_eq_decide]

/-- A field of a word replaced. -/
theorem putField_getLsbD {w : Nat} (v : BitVec w) (lo n : Nat) (x : BitVec n) {i : Nat} (h : i < w) :
    (putField v lo n x).getLsbD i = if lo ≤ i ∧ i < lo + n then x.getLsbD (i - lo) else v.getLsbD i := by
  have within : (i - lo < w) := by omega
  have mask : ((BitVec.allOnes n).setWidth w <<< lo).getLsbD i = decide (lo ≤ i ∧ i < lo + n) := by
    simp only [BitVec.getLsbD_shiftLeft, BitVec.getLsbD_setWidth, BitVec.getLsbD_allOnes, h, within, decide_true,
      Bool.true_and, ← Bool.decide_and, ← decide_not, decide_eq_decide]
    omega
  rw [putField, merge_getLsbD, mask]
  by_cases inside : lo ≤ i ∧ i < lo + n
  · simp [inside, h]
  · simp [inside]

theorem mergeLeft_getLsbD (d x : Word) (b : BitVec 2) {i : Nat} (h : i < 32) :
    (mergeLeft d x b).getLsbD i = if 8 * b.toNat ≤ i then x.getLsbD (i - 8 * b.toNat) else d.getLsbD i := by
  have within : i - 8 * b.toNat < 32 := by omega
  rw [mergeLeft, merge_getLsbD, BitVec.getLsbD_shiftLeft, BitVec.getLsbD_allOnes, BitVec.getLsbD_shiftLeft]
  by_cases above : 8 * b.toNat ≤ i
  · simp [above, h, within]
  · simp [above, h]

theorem mergeRight_getLsbD (d x : Word) (b : BitVec 2) (i : Nat) :
    (mergeRight d x b).getLsbD i = if i + 8 * b.toNat < 32 then x.getLsbD (i + 8 * b.toNat) else d.getLsbD i := by
  rw [mergeRight, merge_getLsbD, BitVec.getLsbD_ushiftRight, BitVec.getLsbD_allOnes, BitVec.getLsbD_ushiftRight, Nat.add_comm]
  simp only [decide_eq_true_eq]

/-- The low bits of a source are the source's own. -/
theorem getLsbD_extractLow (x : Word) {n i : Nat} (h : i < n) : (x.extractLsb' 0 n).getLsbD i = x.getLsbD i := by
  simp [h]

theorem mergeByte_getLsbD (d x : Word) (b : BitVec 2) {i : Nat} (h : i < 32) : (mergeByte d x b).getLsbD i =
    if 8 * b.toNat ≤ i ∧ i < 8 * b.toNat + 8 then x.getLsbD (i - 8 * b.toNat) else d.getLsbD i := by
  rw [mergeByte, putField_getLsbD _ _ _ _ h]
  split
  · exact getLsbD_extractLow x (by omega)
  · rfl

theorem mergeHalf_getLsbD (d x : Word) (b : BitVec 1) {i : Nat} (h : i < 32) : (mergeHalf d x b).getLsbD i =
    if 16 * b.toNat ≤ i ∧ i < 16 * b.toNat + 16 then x.getLsbD (i - 16 * b.toNat) else d.getLsbD i := by
  rw [mergeHalf, putField_getLsbD _ _ _ _ h]
  split
  · exact getLsbD_extractLow x (by omega)
  · rfl

end Sys2Proof.Machine

open Sys2Proof Sys2Proof.Machine

/-- Settles O33: the shifts by the sign of the count, then the rotates with the bit that enters. -/
theorem shiftsAndRotates : Obligations.ShiftsAndRotates := by
  refine ⟨?shifts, ?rotates⟩
  case shifts =>
    intro s u dst src x k read d n
    have ash := fun r => exec_binary (r := r) read (fun _ => ashInt) (rfl : exec (.ash dst src) s = _)
    have lsh := fun r => exec_binary (r := r) read (fun _ => lshInt) (rfl : exec (.lsh dst src) s = _)
    exact ⟨fun h => ⟨ash _ (ashInt_zero d h), lsh _ (lshInt_zero d h)⟩,
      fun h hk => ⟨ash _ (ashInt_left d h hk), lsh _ (lshInt_left d h hk)⟩,
      fun h hk => ⟨ash _ (ashInt_right d h hk), lsh _ (lshInt_right d h hk)⟩⟩
  case rotates =>
    intro s dst t d c
    rw [rotateLeft_one, rotateRight_one, ← rotateLeft_eq, ← rotateLeft_eq, ← rotateRight_eq, ← rotateRight_eq]
    exact ⟨rfl, rfl, rfl, rfl⟩

/-- Settles O34: the loads by the part they select, the merges by their bits. -/
theorem bytesAndHalfWords : Obligations.BytesAndHalfWords := by
  intro s u dst src x b h read byte d k j half
  have byteEq : byteOf x b = byte := byteOf_eq x b
  have halfEq : halfOf x h = half := halfOf_eq x h
  refine ⟨?lb, ?lbu, ?lh, ?lhu, ⟨mergeLeft d x b, ?lwl, fun i => mergeLeft_getLsbD d x b⟩,
    ⟨mergeRight d x b, ?lwr, fun i _ => mergeRight_getLsbD d x b i⟩, ⟨mergeByte d x b, ?mb, fun i => mergeByte_getLsbD d x b⟩,
    ⟨mergeHalf d x h, ?mh, fun i => mergeHalf_getLsbD d x h⟩⟩
  case lb => exact byteEq ▸ exec_unary read (fun _ x => plainFlags ((byteOf x b).signExtend 32)) rfl (plainFlags_eq _)
  case lbu => exact byteEq ▸ exec_unary read (fun _ x => unsignedFlags ((byteOf x b).setWidth 32)) rfl (unsignedFlags_eq _)
  case lh => exact halfEq ▸ exec_unary read (fun _ x => plainFlags ((halfOf x h).signExtend 32)) rfl (plainFlags_eq _)
  case lhu => exact halfEq ▸ exec_unary read (fun _ x => unsignedFlags ((halfOf x h).setWidth 32)) rfl (unsignedFlags_eq _)
  case lwl => exact exec_binary read (fun _ d x => plainFlags (mergeLeft d x b)) rfl (plainFlags_eq _)
  case lwr => exact exec_binary read (fun _ d x => plainFlags (mergeRight d x b)) rfl (plainFlags_eq _)
  case mb => exact exec_binary read (fun _ d x => plainFlags (mergeByte d x b)) rfl (plainFlags_eq _)
  case mh => exact exec_binary read (fun _ d x => plainFlags (mergeHalf d x h)) rfl (plainFlags_eq _)
end

section
/-! PROOFS. Normalization and the end of every floating-point operation (O36): `leading` and `scale` in rational terms, then
the cases of `floatFinish` by the exponent of the result. -/

namespace Sys2Proof.Machine

/-! ### The leading position -/

/-- m × 2^−p is a normalized mantissa: in [1, 2) or [−2, −1) (41 R253). -/
def Leads (m p : Int) : Prop :=
  ((2 : Rat) ^ p ≤ m ∧ m < (2 : Rat) ^ (p + 1)) ∨ (-(2 : Rat) ^ (p + 1) ≤ m ∧ m < -(2 : Rat) ^ p)

theorem two_zpow_pos (p : Int) : (0 : Rat) < 2 ^ p := zpow_pos (by norm_num) p

theorem Leads.pos {m p : Int} (h : Leads m p) (hm : 0 < m) : (2 : Rat) ^ p ≤ m ∧ m < (2 : Rat) ^ (p + 1) := by
  refine h.resolve_right fun negative => ?_
  have : (m : Rat) < 0 := negative.2.trans (neg_lt_zero.2 (two_zpow_pos p))
  exact absurd (Int.cast_lt_zero.1 this) (by omega)

theorem Leads.neg {m p : Int} (h : Leads m p) (hm : m < 0) : -(2 : Rat) ^ (p + 1) ≤ m ∧ m < -(2 : Rat) ^ p := by
  refine h.resolve_left fun positive => ?_
  have : (0 : Rat) < m := (two_zpow_pos p).trans_le positive.1
  exact absurd (Int.cast_pos.1 this) (by omega)

/-- A number has one leading position. -/
theorem Leads.unique {m p q : Int} (hp : Leads m p) (hq : Leads m q) (hm : m ≠ 0) : p = q := by
  have lt_succ : ∀ {a b : Int}, (2 : Rat) ^ a < 2 ^ (b + 1) → a ≤ b := fun h =>
    Int.lt_add_one_iff.1 ((zpow_lt_zpow_iff_right₀ (by norm_num)).1 h)
  rcases lt_or_gt_of_ne hm with negative | positive
  · obtain ⟨lowP, highP⟩ := hp.neg negative
    obtain ⟨lowQ, highQ⟩ := hq.neg negative
    exact le_antisymm (lt_succ (by linarith)) (lt_succ (by linarith))
  · obtain ⟨lowP, highP⟩ := hp.pos positive
    obtain ⟨lowQ, highQ⟩ := hq.pos positive
    exact le_antisymm (lt_succ (lowP.trans_lt highQ)) (lt_succ (lowQ.trans_lt highP))

/-- The binary logarithm bounds a natural number by powers of two. -/
theorem log2_bounds {n : Nat} (h : n ≠ 0) : 2 ^ Nat.log2 n ≤ n ∧ n < 2 ^ (Nat.log2 n + 1) :=
  (Nat.log2_eq_iff h).1 rfl

theorem leading_leads {m : Int} (h : m ≠ 0) : Leads m (leading m) := by
  unfold leading
  split
  · rename_i positive
    obtain ⟨low, high⟩ := log2_bounds (n := m.toNat) (by omega)
    have value : ((m.toNat : Nat) : Rat) = m := by exact_mod_cast Int.toNat_of_nonneg positive.le
    left
    rw [← value]
    exact ⟨by exact_mod_cast low, by exact_mod_cast high⟩
  · split
    · rename_i minusOne
      right
      subst minusOne
      norm_num
    · obtain ⟨low, high⟩ := log2_bounds (n := (-m - 1).toNat) (by omega)
      have value : (((-m - 1).toNat : Nat) : Rat) = -m - 1 := by
        exact_mod_cast Int.toNat_of_nonneg (show 0 ≤ -m - 1 by omega)
      right
      have low' : (2 : Rat) ^ (Nat.log2 (-m - 1).toNat : Int) ≤ -m - 1 := by rw [← value]; exact_mod_cast low
      have high' : (-m - 1).toNat + 1 ≤ 2 ^ (Nat.log2 (-m - 1).toNat + 1) := high
      have high'' : (-m : Rat) ≤ (2 : Rat) ^ ((Nat.log2 (-m - 1).toNat : Int) + 1) := by
        rw [show (-m : Rat) = ((-m - 1).toNat : Rat) + 1 by rw [value]; ring]
        exact_mod_cast high'
      exact ⟨by linarith, by linarith⟩

theorem Leads.leading_eq {m p : Int} (h : Leads m p) (hm : m ≠ 0) : leading m = p := (leading_leads hm).unique h hm

/-! ### The shift of a mantissa -/

/-- The bits below the unit are cut. -/
theorem scale_eq_floor (m k : Int) : scale m k = ⌊(m : Rat) * 2 ^ k⌋ := by
  unfold scale
  split
  · rename_i left
    obtain ⟨n, rfl⟩ := Int.eq_ofNat_of_zero_le left
    rw [Int.toNat_natCast, zpow_natCast]
    exact_mod_cast (Int.floor_intCast (R := Rat) (m * 2 ^ n)).symm
  · obtain ⟨n, hn⟩ := Int.eq_ofNat_of_zero_le (show 0 ≤ -k by omega)
    obtain rfl : k = -(n : Int) := by omega
    rw [neg_neg, Int.toNat_natCast, Int.shiftRight_eq_div_pow, zpow_neg, zpow_natCast, ← div_eq_mul_inv]
    have := Rat.floor_intCast_div_natCast m (2 ^ n)
    push_cast at this ⊢
    exact this.symm

theorem scale_le (m k : Int) : (scale m k : Rat) ≤ m * 2 ^ k := scale_eq_floor m k ▸ Int.floor_le _

theorem lt_scale_add_one (m k : Int) : (m : Rat) * 2 ^ k < scale m k + 1 := scale_eq_floor m k ▸ Int.lt_floor_add_one _

/-- A mantissa as a register holds it, with its implied bit, in units of 2^−31. -/
def Normalized (man : Int) : Prop := (2 ^ 31 ≤ man ∧ man < 2 ^ 32) ∨ (-2 ^ 32 ≤ man ∧ man < -2 ^ 31)

/-- Shifting the leading bit to position 31 keeps the sign and normalizes. -/
theorem Leads.scale_bounds {m p : Int} (h : Leads m p) :
    (0 < m → 2 ^ 31 ≤ scale m (31 - p) ∧ scale m (31 - p) < 2 ^ 32)
      ∧ (m < 0 → -2 ^ 32 ≤ scale m (31 - p) ∧ scale m (31 - p) < -2 ^ 31) := by
  have unit := two_zpow_pos (31 - p)
  have one : (2 : Rat) ^ p * 2 ^ (31 - p) = 2147483648 := by rw [← zpow_add₀ (by norm_num)]; norm_num
  have two : (2 : Rat) ^ (p + 1) * 2 ^ (31 - p) = 4294967296 := by
    rw [← zpow_add₀ (by norm_num), show p + 1 + (31 - p) = 32 by ring]
    norm_num
  rw [scale_eq_floor, Int.le_floor, Int.floor_lt, Int.le_floor, Int.floor_lt]
  push_cast
  rw [← one, ← two, ← neg_mul, ← neg_mul]
  refine ⟨fun hm => ?_, fun hm => ?_⟩
  · exact (h.pos hm).imp (mul_le_mul_of_nonneg_right · unit.le) (mul_lt_mul_of_pos_right · unit)
  · exact (h.neg hm).imp (mul_le_mul_of_nonneg_right · unit.le) (mul_lt_mul_of_pos_right · unit)

theorem Leads.scale_normalized {m p : Int} (h : Leads m p) (hm : m ≠ 0) : Normalized (scale m (31 - p)) :=
  (lt_or_gt_of_ne hm).elim (fun negative => .inr (h.scale_bounds.2 negative)) fun positive =>
    .inl (h.scale_bounds.1 positive)

/-! ### The register pattern -/

section
variable (e : BitVec 8) (s : Bool) (f : BitVec 31)

theorem exponent_fields : exponent (e ++ BitVec.ofBool s ++ f) = e.toInt := by
  rw [exponent, BitVec.extractLsb'_append_eq_of_le (by decide), BitVec.extractLsb'_append_eq_left]

theorem sign_fields : (e ++ BitVec.ofBool s ++ f).getLsbD 31 = s := by
  rw [BitVec.getLsbD_append, if_neg (by decide), BitVec.getLsbD_append, if_pos (by decide)]
  simp

theorem fraction_fields : (e ++ BitVec.ofBool s ++ f).extractLsb' 0 31 = f := BitVec.extractLsb'_append_eq_right

/-- The number of a register, field by field. -/
theorem ofExt_fields (he : e.toInt ≠ -128) :
    Num.ofExt (e ++ BitVec.ofBool s ++ f) = ⟨f.toNat + (if s then -2 ^ 32 else 2 ^ 31), e.toInt⟩ := by
  simp only [Num.ofExt, exponent_fields, he, if_false, sign_fields, bits, fraction_fields, Num.mk.injEq, and_true]
  split <;> omega

end

/-- A number whose exponent is −128 is zero (92 D40). -/
theorem ofExt_of_exponent {x : Ext} (h : exponent x = -128) : Num.ofExt x = ⟨0, -128⟩ := by
  simp only [Num.ofExt, h, if_true]

theorem toInt_ofInt_exponent {e : Int} (low : -128 ≤ e) (high : e ≤ 127) : (BitVec.ofInt 8 e).toInt = e :=
  BitVec.toInt_ofInt_eq_self (by decide) (by omega) (by omega)

theorem exponent_packExt {e : Int} (man : Int) (low : -128 ≤ e) (high : e ≤ 127) : exponent (packExt e man) = e := by
  rw [packExt, exponent_fields, toInt_ofInt_exponent low high]

/-- A normalized number in a register gives its exponent and its mantissa back. -/
theorem ofExt_packExt {e man : Int} (low : -128 < e) (high : e ≤ 127) (normal : Normalized man) :
    Num.ofExt (packExt e man) = ⟨man, e⟩ := by
  have exact8 := toInt_ofInt_exponent low.le high
  rw [packExt, ofExt_fields _ _ _ (by omega), exact8, BitVec.toNat_ofInt]
  congr 1
  simp only [decide_eq_true_eq]
  rcases normal with normal | normal
  · rw [if_neg (by omega)]
    omega
  · rw [if_pos (by omega)]
    omega

/-! ### The end of an operation (41 R253) -/

theorem floatFinish_zero (exp : Int) : floatFinish ⟨0, exp⟩ = (zeroExt, { n := false, z := true }) := rfl

section
variable {m p exp : Int} (lead : Leads m p) (hm : m ≠ 0)
include lead hm

theorem floatFinish_overflow (h : 127 < exp + p - 31) : floatFinish ⟨m, exp⟩ =
    (if 0 < m then mostPositive else mostNegative, { v := true, n := decide (m < 0), z := false }) := by
  simp only [floatFinish, hm, if_false, lead.leading_eq hm, h, if_true]

theorem floatFinish_underflow (h : exp + p - 31 ≤ -128) :
    floatFinish ⟨m, exp⟩ = (zeroExt, { uf := true, n := false, z := true }) := by
  have inside : ¬ 127 < exp + p - 31 := by omega
  simp only [floatFinish, hm, if_false, lead.leading_eq hm, inside, h, if_true]

theorem floatFinish_normal (low : -128 < exp + p - 31) (high : exp + p - 31 ≤ 127) : floatFinish ⟨m, exp⟩ =
    (packExt (exp + p - 31) (scale m (31 - p)), { n := decide (m < 0), z := false }) := by
  simp only [floatFinish, hm, if_false, lead.leading_eq hm, not_lt.2 high, not_le.2 low]

end

end Sys2Proof.Machine

namespace Sys2Proof

open Sys2Proof.Machine

/-- Settles O36: overflow, underflow, and the cut of `scale` in between. (Protected: the model's function has this name too.) -/
protected theorem floatFinish : Obligations.FloatFinish := by
  refine ⟨floatFinish_zero, fun m exp e hm range => ?_⟩
  have lead : Leads m (e - exp + 31) := by
    rw [Leads, show e - exp + 31 + 1 = e - exp + 32 by ring]
    exact range
  have result : exp + (e - exp + 31) - 31 = e := by ring
  refine ⟨fun above => floatFinish_overflow lead hm (by rwa [result]),
    fun below => floatFinish_underflow lead hm (by rwa [result]), fun low high => ?_⟩
  rw [floatFinish_normal lead hm (by rwa [result]) (by rwa [result]), result,
    ofExt_packExt low high (lead.scale_normalized hm), show 31 - (e - exp + 31) = exp - e by ring]
  exact ⟨rfl, rfl, scale_le _ _, lt_scale_add_one _ _⟩

end Sys2Proof
end

section
/-! PROOFS. Floating-point arithmetic (O37) and the conversions (O38): each shape of a floating-point meaning once, and the
value of each operation on exact numbers. -/

namespace Sys2Proof.Machine

/-! ### The shapes, where the operands are read -/

section
variable {s u : State} {i : Instr} {dst : FReg} {r : Ext × Flags} {α ρ : Type} {o : ρ} {x : α}
  {source : State → ρ → Res α} (read : source s.sequenced o = .ok x u)
include read

/-- A floating-point result of operands of any kind: a word, a register, a pair. -/
theorem exec_valueF (op : State → α → Ext × Flags)
    (meaning : exec i s = s.run fun t => (source t o).andThen fun x v => v.resultF dst (op t x))
    (value : op s.sequenced x = r) : exec i s = .next (u.resultF dst r) := by
  rw [meaning, ← value]
  exact State.run_of_ok (Res.andThen_of_ok read)

/-- The flags of such a result alone. -/
theorem exec_flagsF (op : State → α → Ext × Flags)
    (meaning : exec i s = s.run fun t => (source t o).andThen fun x v => v.setFlags (op t x).2)
    (value : op s.sequenced x = r) : exec i s = .next (u.setFlags r.2) := by
  rw [meaning, ← value]
  exact State.run_of_ok (Res.andThen_of_ok read)

end

/-! ### Exact numbers (30 R161, 41 R254, R255) -/

theorem ofExt_eq (x : Ext) : Num.ofExt x = if x.extractLsb' 32 8 = 0x80 then ⟨0, -128⟩
    else ⟨(x.extractLsb' 0 31).toNat + (if x.getLsbD 31 = true then -(2 : Int) ^ 32 else (2 : Int) ^ 31),
      (x.extractLsb' 32 8).toInt⟩ := by
  simp only [Num.ofExt, exponent_eq_zero_iff]
  split
  · rfl
  · congr 1
    simp only [bits]
    split <;> omega

/-- The sum on the grid of the larger exponent (92 D46). -/
theorem floatFinish_add (p q : Num) : floatFinish (p.add q) =
    if p.man = 0 then floatOutcome q.man q.exp
    else if q.man = 0 then floatOutcome p.man p.exp
    else floatOutcome
      (p.man / 2 ^ (max p.exp q.exp - p.exp).toNat + q.man / 2 ^ (max p.exp q.exp - q.exp).toNat) (max p.exp q.exp) := by
  unfold Num.add
  split
  · rfl
  · split
    · rfl
    · simp only [floatOutcome, Int.shiftRight_eq_div_pow]
      norm_cast

/-! ### FIX (41 R258) -/

theorem fixInt_eq (x : Ext) : fixInt x =
    let a := Num.ofExt x
    let v : Word := if 30 < a.exp then (if 0 < a.man then 0x7FFFFFFF else 0x80000000)
      else BitVec.ofInt 32 (a.man / 2 ^ (31 - a.exp).toNat)
    (v, { (plainOutcome v none).2 with v := decide (30 < a.exp) }) := by
  simp only [fixInt, plainOutcome, beq_eq_decide, decide_eq_true_eq, Int.shiftRight_eq_div_pow]
  norm_cast

theorem exec_fix {s u : State} (dst : Reg) {src : Src FReg} {x : Ext} (read : s.sequenced.sourceFloat src = .ok x u) :
    exec (.fix dst src) s = .next (u.result dst (fixInt x)) := by
  change execFix dst src s = _
  exact State.run_of_ok (Res.andThen_of_ok read)

/-- FLOAT of the integer that its operand reads as. -/
theorem exec_float {s u : State} (dst : FReg) {src : Src FReg} {n : Word}
    (read : s.sequenced.source (fun r => (s.sequenced.getF r).extractLsb' 0 32) id sext16 src = .ok n u) :
    exec (.float dst src) s = .next (u.resultF dst (floatInt n)) := by
  change execFloat dst src s = _
  exact State.run_of_ok (Res.andThen_of_ok read)

end Sys2Proof.Machine

open Sys2Proof Sys2Proof.Machine

/-- Settles O37: sums, differences and products of the numbers in the registers. -/
theorem floatArithmetic : Obligations.FloatArithmetic := by
  unfold Obligations.FloatArithmetic
  intro sum sub
  have add : ∀ p q : Machine.Num, Machine.floatFinish (p.add q) = sum p q := floatFinish_add
  refine ⟨ofExt_eq, fun s u dst src x read => ?two, fun s u dst o x y read => ?three, fun p q x y => ⟨add p q, add _ _, add _ _⟩⟩
  case two =>
    intro a b
    refine ⟨?addf, ?subf, ?subrf, ?mpyf, ?negf, ?absf, ?cmpf⟩
    case addf => exact exec_valueF read (fun t x => floatAdd (t.getF dst) x) rfl (add a b)
    case subf => exact exec_valueF read (fun t x => floatSub (t.getF dst) x) rfl (add a b.neg)
    case subrf => exact exec_valueF read (fun t x => floatSub x (t.getF dst)) rfl (add b a.neg)
    case mpyf => exact exec_valueF read (fun t x => floatMul (t.getF dst) x) rfl rfl
    case negf => exact exec_valueF read (fun _ => floatNeg) rfl rfl
    case absf => exact exec_valueF read (fun _ => floatAbs) rfl rfl
    case cmpf => exact exec_flagsF read (fun t x => floatSub (t.getF dst) x) rfl (add a b.neg)
  case three =>
    intro a b
    refine ⟨?addf3, ?subf3, ?mpyf3, ?cmpf3⟩
    case addf3 => exact exec_valueF read (fun _ x => floatAdd x.1 x.2) rfl (add a b)
    case subf3 => exact exec_valueF read (fun _ x => floatSub x.1 x.2) rfl (add a b.neg)
    case mpyf3 => exact exec_valueF read (fun _ x => floatMul x.1 x.2) rfl rfl
    case cmpf3 => exact exec_flagsF read (fun _ x => floatSub x.1 x.2) rfl (add a b.neg)

/-- Settles O38: FIX, FLOAT in its three forms, then the operations of Float.lean on the operand. -/
theorem floatConversions : Obligations.FloatConversions := by
  intro s u
  refine ⟨fun dst src x read => ?_, fun dst n => exec_float dst rfl, fun dst v => exec_float dst rfl,
    fun dst m w read => exec_float dst (State.source_mem read _ _ _), fun dst src x read => ⟨?norm, ?rnd, ?toieee, ?rcpf, ?rsqrf⟩,
    fun dst m w read => exec_valueF (source := fun t m => t.fetch .plain m) read (fun _ => fromIeee) rfl rfl⟩
  · intro a v
    rw [exec_fix dst read, fixInt_eq]
  case norm => exact exec_valueF read (fun _ => normFloat) rfl rfl
  case rnd => exact exec_valueF read (fun _ => roundFloat) rfl rfl
  case toieee => exact exec_valueF read (fun _ => toIeee) rfl rfl
  case rcpf => exact exec_valueF read (fun _ => reciprocal) rfl rfl
  case rsqrf => exact exec_valueF read (fun t => rootReciprocal t.draws) rfl rfl
end

section
/-! PROOFS. Conversions there and back, and the tables of the IEEE conversions (O39). -/

namespace Sys2Proof.Machine

/-! ### FLOAT, then FIX -/

theorem toInt_ne_zero {n : Word} (h : n ≠ 0) : n.toInt ≠ 0 := fun e => h (BitVec.toInt_inj.1 (e.trans BitVec.toInt_zero.symm))

/-- The register of an integer that is not 0: its leading position is the exponent. -/
theorem floatInt_eq {n : Word} (h : n ≠ 0) : ∃ p : Int, -1 ≤ p ∧ p ≤ 30 ∧
    Num.ofExt (floatInt n).1 = ⟨scale n.toInt (31 - p), p⟩ := by
  have nonzero := toInt_ne_zero h
  have lead := leading_leads nonzero
  have low := leading_ge n.toInt
  have high := leading_lt n.toInt 31 (BitVec.le_toInt n) BitVec.toInt_lt nonzero
  have exponent_eq : 31 + leading n.toInt - 31 = leading n.toInt := by ring
  refine ⟨leading n.toInt, low, by omega, ?_⟩
  rw [floatInt, floatFinish_normal lead nonzero (by omega) (by omega), exponent_eq]
  exact ofExt_packExt (by omega) (by omega) (lead.scale_normalized nonzero)

theorem fixInt_floatInt (n : Word) : (fixInt (floatInt n).1).1 = n ∧ (fixInt (floatInt n).1).2.v = false := by
  by_cases zero : n = 0
  · subst zero
    decide
  obtain ⟨p, low, high, number⟩ := floatInt_eq zero
  obtain ⟨k, hk⟩ := Int.eq_ofNat_of_zero_le (show 0 ≤ 31 - p by omega)
  have inside : ¬ 30 < p := by omega
  have back : n.toInt * 2 ^ k / 2 ^ k = n.toInt := Int.mul_ediv_cancel _ (by positivity)
  rw [fixInt_eq, number]
  simp only [inside, if_false, scale, hk, Int.natCast_nonneg, if_true, Int.toNat_natCast, back, decide_false, and_true]
  exact BitVec.ofInt_toInt

/-! ### The parts of a word of each format -/

/-- An IEEE single: sign, exponent, fraction. -/
theorem ieee_parts (w : Word) : BitVec.ofBool (w.getLsbD 31) ++ w.extractLsb' 23 8 ++ w.extractLsb' 0 23 = w := by
  refine BitVec.eq_of_getLsbD_eq fun i hi => ?_
  rw [BitVec.getLsbD_append, BitVec.getLsbD_append]
  split
  · rename_i low
    simp [low]
  · split
    · rename_i low
      simp [low, show 23 + (i - 23) = i by omega]
    · obtain rfl : i = 31 := by omega
      simp

section
variable (e : BitVec 8) (s : BitVec 1) (f : BitVec 23)

/-- A number of the machine in single precision: exponent, sign, fraction, eight low bits 0. -/
theorem extended_exponent : (e ++ s ++ f ++ (0 : BitVec 8)).extractLsb' 32 8 = e := by
  rw [BitVec.extractLsb'_append_eq_of_le (by decide), BitVec.extractLsb'_append_eq_of_le (by decide),
    BitVec.extractLsb'_append_eq_left]

theorem extended_sign : (e ++ s ++ f ++ (0 : BitVec 8)).getLsbD 31 = s.getLsbD 0 := by
  rw [BitVec.getLsbD_append, if_neg (by decide), BitVec.getLsbD_append, if_neg (by decide), BitVec.getLsbD_append,
    if_pos (by decide)]

theorem extended_fraction : (e ++ s ++ f ++ (0 : BitVec 8)).extractLsb' 8 23 = f := by
  rw [BitVec.extractLsb'_append_eq_of_le (by decide), BitVec.extractLsb'_append_eq_right]

end

/-! ### FRIEEE (30 R166, Table 5.12) -/

section
variable {w : Word}

theorem fromIeee_special (h : w.extractLsb' 23 8 = 255) : fromIeee w =
    (if w.getLsbD 31 = true then 0x7F80000000 else 0x7F7FFFFF00, { v := true, n := w.getLsbD 31, z := false }) := by
  simp only [fromIeee, h, if_true]
  cases w.getLsbD 31 <;> rfl

theorem fromIeee_zero (h : w.extractLsb' 23 8 = 0) :
    fromIeee w = (0x8000000000, { v := false, n := false, z := true }) := by
  have finite : (0 : BitVec 8) ≠ 255 := by decide
  simp only [fromIeee, h, finite, if_false, if_true]
  rfl

theorem fromIeee_normal (h0 : w.extractLsb' 23 8 ≠ 0) (h255 : w.extractLsb' 23 8 ≠ 255) : fromIeee w =
    (if w.getLsbD 31 = false then (w.extractLsb' 23 8 - 0x7F) ++ (0 : BitVec 1) ++ w.extractLsb' 0 23 ++ (0 : BitVec 8)
      else if w.extractLsb' 0 23 = 0 then (w.extractLsb' 23 8 - 0x80) ++ (1 : BitVec 1) ++ w.extractLsb' 0 23 ++ (0 : BitVec 8)
      else (w.extractLsb' 23 8 - 0x7F) ++ (1 : BitVec 1) ++ (~~~(w.extractLsb' 0 23) + 1) ++ (0 : BitVec 8),
      { v := false, n := w.getLsbD 31, z := false }) := by
  have signBit : ∀ (e : BitVec 8) (s : BitVec 1) (f : BitVec 23), (e ++ s ++ f).getLsbD 23 = s.getLsbD 0 := fun e s f => by
    rw [BitVec.getLsbD_append, if_neg (by decide), BitVec.getLsbD_append, if_pos (by decide)]
  simp only [fromIeee, h0, h255, if_false, beq_eq_decide, decide_false, singleToExtended]
  cases w.getLsbD 31
  · simp only [Bool.not_false, if_true, signBit]
    rfl
  · by_cases zero : w.extractLsb' 0 23 = 0
    · simp only [Bool.not_true, Bool.true_eq_false, Bool.false_eq_true, if_false, zero, if_true, signBit]
      rfl
    · simp only [Bool.not_true, Bool.true_eq_false, Bool.false_eq_true, if_false, zero, signBit]
      rfl

end

/-! ### TOIEEE (30 R167, Table 5.13) -/

section
variable {x : Ext}

theorem toIeee_zero (h : x.extractLsb' 32 8 = 0x80 ∨ x.extractLsb' 32 8 = 0x81) :
    toIeee x = (0, { v := false, n := false, z := true }) := by
  have finite : (x.extractLsb' 32 8 == 0x7F) = false := by rcases h with h | h <;> rw [h] <;> rfl
  simp only [toIeee, h, if_true, finite, Bool.false_and]
  rfl

theorem toIeee_mostNegative (he : x.extractLsb' 32 8 = 0x7F) (hs : x.getLsbD 31 = true) (hf : x.extractLsb' 8 23 = 0) :
    toIeee x = (0xFF80000000, { v := true, n := true, z := false }) := by
  simp only [toIeee, he, hs, hf]
  rfl

/-- An IEEE word is not 0 where its exponent is not, and has its sign on top. -/
theorem ieee_beq_zero {s : BitVec 1} {e : BitVec 8} (f : BitVec 23) (h : s ≠ 0 ∨ e ≠ 0) :
    (s ++ e ++ f == (0 : Word)) = false := by
  rw [beq_eq_false_iff_ne]
  intro zero
  have exponent := congrArg (fun w : Word => w.extractLsb' 23 8) zero
  have sign := congrArg (fun w : Word => w.extractLsb' 31 1) zero
  rw [BitVec.extractLsb'_append_eq_of_le (by decide), BitVec.extractLsb'_append_eq_right] at exponent
  rw [BitVec.extractLsb'_append_eq_of_le (by decide), BitVec.extractLsb'_append_eq_left] at sign
  exact h.elim (fun h => h sign) fun h => h exponent

theorem ieee_msb (s : BitVec 1) (e : BitVec 8) (f : BitVec 23) : (s ++ e ++ f : Word).msb = s.getLsbD 0 := by
  rw [BitVec.msb_eq_getLsbD_last, BitVec.getLsbD_append, if_neg (by decide), BitVec.getLsbD_append, if_neg (by decide)]

theorem toIeee_normal (h80 : x.extractLsb' 32 8 ≠ 0x80) (h81 : x.extractLsb' 32 8 ≠ 0x81)
    (hv : x.extractLsb' 32 8 ≠ 0x7F ∨ x.getLsbD 31 = false ∨ x.extractLsb' 8 23 ≠ 0) : toIeee x =
    (if x.getLsbD 31 = false then (0 : BitVec 1) ++ (x.extractLsb' 32 8 + 0x7F) ++ x.extractLsb' 8 23 ++ (0 : BitVec 8)
      else if x.extractLsb' 8 23 = 0 then (1 : BitVec 1) ++ (x.extractLsb' 32 8 + 0x80) ++ x.extractLsb' 8 23 ++ (0 : BitVec 8)
      else (1 : BitVec 1) ++ (x.extractLsb' 32 8 + 0x7F) ++ (~~~(x.extractLsb' 8 23) + 1) ++ (0 : BitVec 8),
      { v := false, n := x.getLsbD 31, z := false }) := by
  have finite : (x.extractLsb' 32 8 == 0x7F && x.getLsbD 31 && x.extractLsb' 8 23 == 0) = false := by
    rw [Bool.and_eq_false_iff, Bool.and_eq_false_iff]
    simpa [or_assoc] using hv
  have biased : x.extractLsb' 32 8 + 0x7F ≠ 0 := by
    generalize x.extractLsb' 32 8 = e at h81
    bv_omega
  have one : (1 : BitVec 1) ≠ 0 := by decide
  simp only [toIeee, h80, h81, or_self, if_false, finite, singleToExtended]
  clear hv finite
  cases x.getLsbD 31
  · simp only [Bool.not_false, if_true, ieee_msb, ieee_beq_zero _ (.inr biased)]
    rfl
  · by_cases zero : x.extractLsb' 8 23 = 0
    · simp only [Bool.not_true, Bool.true_eq_false, Bool.false_eq_true, if_false, zero, if_true, ieee_msb,
        ieee_beq_zero _ (.inl one)]
      rfl
    · simp only [Bool.not_true, Bool.true_eq_false, Bool.false_eq_true, if_false, zero, ieee_msb, ieee_beq_zero _ (.inl one)]
      rfl

end

/-! ### FRIEEE, then TOIEEE -/

/-- TOIEEE of a machine number put together from its parts. -/
theorem toIeee_parts {e : BitVec 8} (s : BitVec 1) (f : BitVec 23) (h80 : e ≠ 0x80) (h81 : e ≠ 0x81)
    (h7F : e ≠ 0x7F ∨ s.getLsbD 0 = false ∨ f ≠ 0) : (toIeee (e ++ s ++ f ++ (0 : BitVec 8))).1 =
      if s.getLsbD 0 = false then (0 : BitVec 1) ++ (e + 0x7F) ++ f ++ (0 : BitVec 8)
      else if f = 0 then (1 : BitVec 1) ++ (e + 0x80) ++ f ++ (0 : BitVec 8)
      else (1 : BitVec 1) ++ (e + 0x7F) ++ (~~~f + 1) ++ (0 : BitVec 8) := by
  have table := toIeee_normal (x := e ++ s ++ f ++ (0 : BitVec 8))
  rw [extended_exponent, extended_sign, extended_fraction] at table
  rw [table h80 h81 h7F]

theorem toIeee_fromIeee {w : Word} (low : 2 ≤ (w.extractLsb' 23 8).toNat) (high : (w.extractLsb' 23 8).toNat ≤ 254) :
    (toIeee (fromIeee w).1).1 = w ++ (0 : BitVec 8) := by
  have parts := ieee_parts w
  rw [fromIeee_normal (by bv_omega) (by bv_omega)]
  generalize w.extractLsb' 23 8 = e at *
  generalize w.extractLsb' 0 23 = f at *
  generalize w.getLsbD 31 = s at *
  subst parts
  cases s
  · rw [if_pos rfl, toIeee_parts _ _ (by bv_omega) (by bv_omega) (.inr (.inl rfl)), if_pos (by decide), BitVec.sub_add_cancel]
    rfl
  · rw [if_neg (by decide)]
    by_cases zero : f = 0
    · rw [if_pos zero, toIeee_parts _ _ (by bv_omega) (by bv_omega) (.inl (by bv_omega)), if_neg (by decide), if_pos zero,
        BitVec.sub_add_cancel]
      rfl
    · have opposite : ~~~f + 1 ≠ 0 := by bv_omega
      have back : ~~~(~~~f + 1) + 1 = f := by bv_omega
      rw [if_neg zero, toIeee_parts _ _ (by bv_omega) (by bv_omega) (.inr (.inr opposite)), if_neg (by decide),
        if_neg opposite, BitVec.sub_add_cancel, back]
      rfl

end Sys2Proof.Machine

open Sys2Proof Sys2Proof.Machine

/-- Settles O39: the two round trips, then both tables row by row. -/
theorem conversionRoundTrips : Obligations.ConversionRoundTrips :=
  ⟨fixInt_floatInt, fun _ => toIeee_fromIeee, fun _ => ⟨fromIeee_special, fromIeee_zero, fromIeee_normal⟩,
    fun _ => ⟨toIeee_zero, toIeee_mostNegative, toIeee_normal⟩⟩
end

section
/-! PROOFS. Rounding, NORM and the two estimates (O40). -/

namespace Sys2Proof.Machine

/-! ### RND (41 R257) -/

/-- A register whose exponent is not −128 holds a normalized mantissa. -/
theorem ofExt_normalized {x : Ext} (h : exponent x ≠ -128) : Normalized (Num.ofExt x).man := by
  have fraction : (bits x 0 31 : Int) < 2 ^ 31 := by
    have := (x.extractLsb' 0 31).isLt
    simp only [bits]
    omega
  simp only [Num.ofExt, h, if_false, Normalized]
  split
  · right; omega
  · left; omega

theorem roundFloat_zero {x : Ext} (h : exponent x = -128) :
    roundFloat x = (0x8000000000, { uf := true, n := false, z := false, luf := false }) := by
  simp only [roundFloat, ofExt_of_exponent h, if_true]
  rfl

/-- The eight low bits cut. -/
theorem clearLow_eq (x : Ext) : x &&& 0xFFFFFFFF00 = x.extractLsb' 8 32 ++ (0 : BitVec 8) := by
  have mask : ∀ i : Fin 40, (0xFFFFFFFF00 : Ext).getLsbD i = decide (8 ≤ i.val) := by decide
  refine BitVec.eq_of_getLsbD_eq fun i hi => ?_
  rw [BitVec.getLsbD_and, mask ⟨i, hi⟩, BitVec.getLsbD_append]
  by_cases low : i < 8
  · simp [low]
  · simp [low, show i - 8 < 32 by omega, show 8 + (i - 8) = i by omega, show 8 ≤ i by omega]

/-- Half a unit of the last place of a single is 128 units of the extended mantissa. -/
theorem add_half {a : Num} (h : a.man ≠ 0) : a.add ⟨2 ^ 31, a.exp - 24⟩ = ⟨a.man + 128, a.exp⟩ := by
  have larger : max a.exp (a.exp - 24) = a.exp := by omega
  have distance : (a.exp - (a.exp - 24)).toNat = 24 := by omega
  have present : ¬ (2 : Int) ^ 31 = 0 := by decide
  simp only [Num.add, h, present, if_false, larger, distance, sub_self, Int.toNat_zero, Int.shiftRight_zero]
  rfl

theorem roundFloat_eq {x : Ext} (h : exponent x ≠ -128) :
    let a := Num.ofExt x
    let c := floatOutcome (a.man + 128) a.exp
    roundFloat x = (if c.2.v = true ∨ c.2.uf = true then c.1 else c.1.extractLsb' 8 32 ++ (0 : BitVec 8), c.2) := by
  have nonzero : (Num.ofExt x).man ≠ 0 := by
    rcases ofExt_normalized h with bounds | bounds <;> omega
  simp only [roundFloat, nonzero, if_false, add_half nonzero, clearLow_eq, floatOutcome]
  exact congrArg (·, _) (if_congr (by rw [Bool.or_eq_true]) rfl rfl)

/-! ### NORM (41 R282) -/

theorem normFloat_zero {x : Ext} (h : x.extractLsb' 0 32 = 0) :
    normFloat x = (0x8000000000, { uf := false, n := false, z := true }) := by
  simp only [normFloat, h]
  rfl

theorem normFloat_of_exponent {x : Ext} (h : x.extractLsb' 0 32 ≠ 0) (he : exponent x = -128) :
    normFloat x = (0x8000000000, { uf := true, n := false, z := false }) := by
  simp only [normFloat, toInt_ne_zero h, he, if_false, if_true]
  rfl

/-- The first bit unlike the sign of a word is the k-th below it. -/
def FirstUnlike (m : Word) (k : Nat) : Prop :=
  (2 : Int) ^ (32 - k) ≤ 2 * m.toInt ∧ m.toInt < 2 ^ (32 - k)
    ∨ -(2 : Int) ^ (32 - k) ≤ m.toInt ∧ 2 * m.toInt < -(2 : Int) ^ (32 - k)

theorem FirstUnlike.ne_zero {m : Word} {k : Nat} (first : FirstUnlike m k) : m.toInt ≠ 0 := by
  have positive : (0 : Int) < 2 ^ (32 - k) := by positivity
  rcases first with ⟨h, -⟩ | ⟨-, h⟩ <;> omega

section
variable {m : Word} {k : Nat} (hk : k ≤ 32) (first : FirstUnlike m k)
include hk first

theorem FirstUnlike.leads : Leads m.toInt (31 - k) := by
  obtain ⟨j, hj⟩ : ∃ j, j = 32 - k := ⟨_, rfl⟩
  have upper : (2 : Rat) ^ (31 - (k : Int) + 1) = 2 ^ j := by
    rw [← zpow_natCast]
    congr 1
    omega
  have lower : (2 : Rat) ^ (31 - (k : Int)) = 2 ^ j / 2 := by
    rw [show 31 - (k : Int) = j - 1 by omega, zpow_sub_one₀ (by norm_num), zpow_natCast, div_eq_mul_inv]
  rw [Leads, upper, lower]
  rw [FirstUnlike, ← hj] at first
  rcases first with ⟨low, high⟩ | ⟨low, high⟩
  · have low' : (2 : Rat) ^ j ≤ 2 * m.toInt := by exact_mod_cast low
    have high' : (m.toInt : Rat) < 2 ^ j := by exact_mod_cast high
    exact .inl ⟨by linarith, high'⟩
  · have low' : -(2 : Rat) ^ j ≤ m.toInt := by exact_mod_cast low
    have high' : 2 * (m.toInt : Rat) < -2 ^ j := by exact_mod_cast high
    exact .inr ⟨low', by linarith⟩

end

/-- The pattern of a mantissa field shifted by k over the bit that becomes implied. -/
theorem packExt_shift (e : Int) (m : Word) (k : Nat) : packExt e (m.toInt * 2 ^ k) =
    BitVec.ofInt 8 e ++ m.extractLsb' 31 1 ++ (m <<< k).extractLsb' 0 31 := by
  have sign : BitVec.ofBool (decide (m.toInt * 2 ^ k < 0)) = m.extractLsb' 31 1 := by
    have power : (0 : Int) < 2 ^ k := by positivity
    have negative : m.toInt * 2 ^ k < 0 ↔ m.toInt < 0 := by
      rw [mul_neg_iff]
      omega
    rw [decide_eq_decide.2 negative, ← BitVec.msb_eq_toInt, BitVec.msb_eq_getLsbD_last]
    refine BitVec.eq_of_getLsbD_eq fun i hi => ?_
    obtain rfl : i = 0 := by omega
    simp
  have low : BitVec.ofInt 31 (m.toInt * 2 ^ k) = (m <<< k).extractLsb' 0 31 := by
    have word : BitVec.ofInt 32 (m.toInt * 2 ^ k) = m <<< k := by
      rw [BitVec.ofInt_mul, BitVec.ofInt_toInt, BitVec.shiftLeft_eq_mul_twoPow]
      congr 1
      refine BitVec.eq_of_toNat_eq ?_
      rw [BitVec.toNat_twoPow, show (2 : Int) ^ k = ((2 ^ k : Nat) : Int) by norm_cast, BitVec.ofInt_natCast,
        BitVec.toNat_ofNat]
    rw [← word]
    refine BitVec.eq_of_toNat_eq ?_
    rw [BitVec.extractLsb'_toNat, BitVec.toNat_ofInt, BitVec.toNat_ofInt, Nat.shiftRight_zero]
    omega
  rw [packExt, sign, low]

section
variable {x : Ext} {k : Nat} (hk : k ≤ 32) (first : FirstUnlike (x.extractLsb' 0 32) k) (he : exponent x ≠ -128)
include hk first he

theorem normFloat_underflow (h : exponent x - k ≤ -128) :
    normFloat x = (0x8000000000, { uf := true, n := false, z := true }) := by
  have position : exponent x + (31 - (k : Int)) - 31 = exponent x - k := by ring
  simp only [normFloat, first.ne_zero, he, if_false]
  exact floatFinish_underflow (first.leads hk) first.ne_zero (by omega)

theorem normFloat_normal (h : -128 < exponent x - k) : normFloat x =
    (BitVec.ofInt 8 (exponent x - k) ++ (x.extractLsb' 0 32).extractLsb' 31 1 ++ (x.extractLsb' 0 32 <<< k).extractLsb' 0 31,
      { uf := false, n := (x.extractLsb' 0 32).msb, z := false }) := by
  have position : exponent x + (31 - (k : Int)) - 31 = exponent x - k := by ring
  have shifted : scale (x.extractLsb' 0 32).toInt (31 - (31 - (k : Int))) = (x.extractLsb' 0 32).toInt * 2 ^ k := by
    rw [sub_sub_cancel, scale, if_pos (Int.natCast_nonneg k), Int.toNat_natCast]
  have high := (exponent_bounds x).2
  simp only [normFloat, first.ne_zero, he, if_false]
  rw [floatFinish_normal (first.leads hk) first.ne_zero (by omega) (by omega), position, shifted, packExt_shift,
    BitVec.msb_eq_toInt]

end

/-- NORM of a word with exponent 0 counts its leading zeros or ones (41 R256). -/
theorem exponent_normFloat {m : Word} {k : Nat} (hk : k ≤ 32) (first : FirstUnlike m k) :
    exponent (normFloat ((0 : BitVec 8) ++ m)).1 = -(k : Int) := by
  have field : ((0 : BitVec 8) ++ m).extractLsb' 0 32 = m := BitVec.extractLsb'_append_eq_right
  have zero : exponent ((0 : BitVec 8) ++ m) = 0 := by
    rw [exponent, BitVec.extractLsb'_append_eq_left]
    rfl
  have lead := first.leads hk
  simp only [normFloat, field, zero, first.ne_zero, if_false, show ¬ (0 : Int) = -128 by decide]
  rw [floatFinish_normal lead first.ne_zero (by omega) (by omega), exponent_packExt _ (by omega) (by omega)]
  ring

/-! ### The entries of the estimate tables (41 R285, R299, 92 D60) -/

/-- The choice of the implementation or else the first entry allowed is allowed, if any is. -/
theorem entry_allowed {p : Nat → Bool} {t : Nat} (ht : t < 256) (allowed : p t = true) (c : Nat) :
    p (if (c < 256 && p c) = true then BitVec.ofNat 8 c
      else BitVec.ofNat 8 (((List.range 256).find? p).getD 255)).toNat = true := by
  split
  · rename_i chosen
    obtain ⟨small, chosen⟩ : c < 256 ∧ p c = true := by simpa using chosen
    rwa [BitVec.toNat_ofNat, Nat.mod_eq_of_lt small]
  · obtain ⟨u, found⟩ := Option.isSome_iff_exists.1
      (List.find?_isSome.2 ⟨t, List.mem_range.2 ht, allowed⟩)
    have small : u < 256 := List.mem_range.1 (List.mem_of_find?_eq_some found)
    rw [found, Option.getD_some, BitVec.toNat_ofNat, Nat.mod_eq_of_lt small]
    exact List.find?_some found

section
variable (s : Bool) (f : BitVec 8)

theorem index_sign : (BitVec.ofBool s ++ f).getLsbD 8 = s := by
  rw [BitVec.getLsbD_append, if_neg (by decide)]
  simp

theorem index_fraction : bits (BitVec.ofBool s ++ f) 0 8 = f.toNat := by rw [bits, BitVec.extractLsb'_append_eq_right]

/-- The error bound of a reciprocal entry t for the inputs of sign s and fraction f. -/
theorem rcpfAllowed_iff (t : Nat) : rcpfAllowed (BitVec.ofBool s ++ f) t = true ↔
    |estimateMan s t * estimateMan s f.toNat - 131072| < 512
      ∧ |estimateMan s t * (estimateMan s f.toNat + 1) - 131072| ≤ 512 := by
  simp only [rcpfAllowed, index_sign, index_fraction, Bool.and_eq_true, decide_eq_true_eq, Int.abs_eq_natAbs]
  omega

/-- A positive input has an entry: 511 for the least one, else the greatest one that fits. -/
theorem rcpf_exists_positive : ∃ t < 256, rcpfAllowed (BitVec.ofBool false ++ f) t = true := by
  simp only [rcpfAllowed_iff, abs_lt, abs_le, estimateMan, Bool.false_eq_true, if_false]
  by_cases least : f.toNat = 0
  · exact ⟨255, by decide, by rw [least]; decide⟩
  have small := f.isLt
  obtain ⟨q, hq⟩ : ∃ q, q = 131584 / (f.toNat + 257) := ⟨_, rfl⟩
  have low : 131584 / 512 ≤ q := hq ▸ Nat.div_le_div_left (by omega) (by omega)
  have high : q ≤ 131584 / 258 := hq ▸ Nat.div_le_div_left (by omega) (by decide)
  have fits : q * (f.toNat + 257) ≤ 131584 := hq ▸ Nat.div_mul_le_self _ _
  have greatest : 131584 < (q + 1) * (f.toNat + 257) := by
    rw [hq, Nat.add_one_mul]
    exact Nat.lt_div_mul_add (by omega)
  refine ⟨q - 256, by omega, ?_⟩
  obtain ⟨t, rfl⟩ := Nat.exists_eq_add_of_le' (show 256 ≤ q by omega)
  rw [Nat.add_sub_cancel]
  zify at fits greatest
  constructor <;> constructor <;> nlinarith

/-- A negative input but those from −2.0 on has an entry: minus the greatest number that fits. -/
theorem rcpf_exists_negative (h : f ≠ 0) : ∃ t < 256, rcpfAllowed (BitVec.ofBool true ++ f) t = true := by
  simp only [rcpfAllowed_iff, abs_lt, abs_le]
  have small := f.isLt
  have positive : 0 < f.toNat := by bv_omega
  obtain ⟨n, hn⟩ : ∃ n, n = 512 - f.toNat := ⟨_, rfl⟩
  obtain ⟨q, hq⟩ : ∃ q, q = 131583 / n := ⟨_, rfl⟩
  have low : 131583 / 511 ≤ q := hq ▸ Nat.div_le_div_left (by omega) (by omega)
  have high : q ≤ 131583 / 257 := hq ▸ Nat.div_le_div_left (by omega) (by decide)
  have fits : q * n ≤ 131583 := hq ▸ Nat.div_mul_le_self _ _
  have greatest : 131583 < (q + 1) * n := by
    rw [hq, Nat.add_one_mul]
    exact Nat.lt_div_mul_add (by omega)
  have entry : estimateMan true (512 - q) = -q := by simp only [estimateMan, if_true]; omega
  have input : estimateMan true f.toNat = -n := by simp only [estimateMan, if_true]; omega
  refine ⟨512 - q, by omega, ?_⟩
  rw [entry, input]
  zify at fits greatest
  constructor <;> constructor <;> nlinarith

/-- The entry of the table is within its bound, but from −2.0 on. -/
theorem rcpfEntry_allowed (h : s = true → f ≠ 0) :
    rcpfAllowed (BitVec.ofBool s ++ f) (rcpfEntry (BitVec.ofBool s ++ f)).toNat = true := by
  obtain ⟨t, small, allowed⟩ : ∃ t < 256, rcpfAllowed (BitVec.ofBool s ++ f) t = true := by
    cases s
    · exact rcpf_exists_positive f
    · exact rcpf_exists_negative f (h rfl)
  exact entry_allowed small allowed _

/-- From −2.0 on no entry is within the bound, and the nearest one stands. -/
theorem rcpfEntry_lowest : rcpfEntry (BitVec.ofBool true ++ (0 : BitVec 8)) = 255 := by
  have refused : ∀ t < 256, ¬ rcpfAllowed (BitVec.ofBool true ++ (0 : BitVec 8)) t = true := by
    intro t small
    rw [rcpfAllowed_iff, abs_lt]
    simp only [estimateMan, if_true, BitVec.ofNat_eq_ofNat, BitVec.toNat_ofNat]
    omega
  have search : (List.range 256).find? (rcpfAllowed (BitVec.ofBool true ++ (0 : BitVec 8))) = none :=
    List.find?_eq_none.2 fun t ht => refused t (List.mem_range.1 ht)
  rw [rcpfEntry, if_neg, search]
  · rfl
  · simp only [Bool.and_eq_true, decide_eq_true_eq]
    exact fun chosen => refused _ chosen.1 chosen.2

/-- The scale of a root entry, by the lowest bit of the exponent. -/
def rootScale (odd : Bool) : Nat := if odd then 2 else 4

theorem rsqrfAllowed_iff (t : Nat) : rsqrfAllowed (BitVec.ofBool s ++ f) t = true ↔
    rootScale s * 255 * 255 * 256 < (t + 256) * (t + 256) * (f.toNat + 256)
      ∧ (t + 256) * (t + 256) * (f.toNat + 257) ≤ rootScale s * 257 * 257 * 256 := by
  simp only [rsqrfAllowed, index_sign, index_fraction, Bool.and_eq_true, decide_eq_true_eq, rootScale]

/-- Between m − 1 and m, and between q and q + 1, a root entry loses at most the width of its bounds. -/
theorem root_loss {c m q : Nat} (two_or_four : c = 2 ∨ c = 4) (low : 257 ≤ m) (high : m ≤ 512)
    (fits : q * q * m ≤ c * 257 * 257 * 256) (hq : q ≤ 510) : (2 * q + 1) * m + q * q ≤ c * 262144 := by
  have step : (2 * q + 1) * m ≤ (2 * q + 1) * 512 := Nat.mul_le_mul_left _ high
  rcases two_or_four with rfl | rfl
  · have bound : q ≤ 362 := by
      by_contra above
      have square : 363 * 363 * 257 ≤ q * q * m := Nat.mul_le_mul (Nat.mul_le_mul (by omega) (by omega)) low
      omega
    have square : q * q ≤ 362 * 362 := Nat.mul_le_mul bound bound
    omega
  · have square : q * q ≤ 510 * 510 := Nat.mul_le_mul hq hq
    omega

/-- Every input has an entry: 511 if it fits, else the greatest that does. -/
theorem rsqrf_exists : ∃ t < 256, rsqrfAllowed (BitVec.ofBool s ++ f) t = true := by
  simp only [rsqrfAllowed_iff]
  obtain ⟨c, hc⟩ : ∃ c, c = rootScale s := ⟨_, rfl⟩
  have two_or_four : c = 2 ∨ c = 4 := by cases s <;> simp [hc, rootScale]
  obtain ⟨m, hm⟩ : ∃ m, m = f.toNat + 257 := ⟨_, rfl⟩
  have low : 257 ≤ m := by omega
  have high : m ≤ 512 := by have := f.isLt; omega
  rw [← hc, ← hm, show f.toNat + 256 = m - 1 by omega]
  obtain ⟨q, hq⟩ : ∃ q, q = Nat.sqrt (c * 257 * 257 * 256 / m) := ⟨_, rfl⟩
  have fits : q * q * m ≤ c * 257 * 257 * 256 :=
    (Nat.le_div_iff_mul_le (by omega)).1 (hq ▸ Nat.sqrt_le _)
  have greatest : c * 257 * 257 * 256 < (q + 1) * (q + 1) * m :=
    (Nat.div_lt_iff_lt_mul (by omega)).1 (hq ▸ Nat.lt_succ_sqrt _)
  by_cases large : 511 ≤ q
  · have square : 511 * 511 * m ≤ q * q * m := Nat.mul_le_mul_right _ (Nat.mul_le_mul large large)
    exact ⟨255, by decide, by rcases two_or_four with rfl | rfl <;> omega, by omega⟩
  have least : 256 ≤ q := by
    rw [hq, Nat.le_sqrt, Nat.le_div_iff_mul_le (by omega)]
    rcases two_or_four with rfl | rfl <;> omega
  have loss := root_loss two_or_four low high fits (by omega)
  refine ⟨q - 256, by omega, ?_, ?_⟩
  · obtain ⟨n, rfl⟩ := Nat.exists_eq_add_of_le' (show 1 ≤ m by omega)
    rw [Nat.sub_add_cancel least, Nat.add_sub_cancel]
    nlinarith
  · rwa [Nat.sub_add_cancel least]

theorem rsqrfEntry_allowed :
    rsqrfAllowed (BitVec.ofBool s ++ f) (rsqrfEntry (BitVec.ofBool s ++ f)).toNat = true := by
  obtain ⟨t, small, allowed⟩ := rsqrf_exists s f
  exact entry_allowed small allowed _

end

/-! ### The registers of the estimates -/

/-- An estimate in a register: eight fraction bits. -/
def estimateExt (e : Int) (s : Bool) (t : BitVec 8) : Ext :=
  BitVec.ofInt 8 e ++ BitVec.ofBool s ++ t ++ (0 : BitVec 23)

theorem estimateExt_eq (e : Int) (s : Bool) (t : BitVec 8) :
    estimateExt e s t = BitVec.ofInt 8 e ++ BitVec.ofBool s ++ (t ++ (0 : BitVec 23)) := by
  rw [estimateExt, BitVec.append_assoc]
  rfl

section
variable {e : Int} (low : -128 < e) (high : e ≤ 127) (s : Bool) (t : BitVec 8)
include low high

theorem exponent_estimateExt : exponent (estimateExt e s t) = e := by
  rw [estimateExt_eq, exponent_fields, toInt_ofInt_exponent low.le high]

theorem ofExt_estimateExt : Num.ofExt (estimateExt e s t) = ⟨estimateMan s t.toNat * 2 ^ 23, e⟩ := by
  have exact8 := toInt_ofInt_exponent low.le high
  have fraction : (t ++ (0 : BitVec 23)).toNat = t.toNat * 2 ^ 23 := by
    rw [BitVec.toNat_append, BitVec.ofNat_eq_ofNat, BitVec.toNat_ofNat, Nat.zero_mod, Nat.or_zero, Nat.shiftLeft_eq]
  rw [estimateExt_eq, ofExt_fields _ _ _ (by omega), exact8, fraction]
  congr 1
  cases s <;> simp only [estimateMan, if_true, Bool.false_eq_true, if_false] <;> omega

end

theorem sign_estimateExt (e : Int) (s : Bool) (t : BitVec 8) : (estimateExt e s t).getLsbD 31 = s := by
  rw [estimateExt_eq, sign_fields]

theorem low_estimateExt (e : Int) (s : Bool) (t : BitVec 8) : (estimateExt e s t).extractLsb' 0 23 = 0 :=
  BitVec.extractLsb'_append_eq_right

/-- The mantissa of an operand: what its table index shows of it, and a rest. -/
theorem man_eq_index {x : Ext} (h : exponent x ≠ -128) : ∃ r : Int, 0 ≤ r ∧ r < 2 ^ 23 ∧
    (Num.ofExt x).man = estimateMan (x.getLsbD 31) (x.extractLsb' 23 8).toNat * 2 ^ 23 + r := by
  have index : (x.extractLsb' 23 8).toNat = bits x 0 31 / 2 ^ 23 := by
    rw [bits, BitVec.extractLsb'_toNat, BitVec.extractLsb'_toNat, Nat.shiftRight_eq_div_pow, Nat.shiftRight_zero]
    omega
  refine ⟨(bits x 0 31 % 2 ^ 23 : Nat), by omega, by omega, ?_⟩
  rw [index]
  simp only [Num.ofExt, h, if_false]
  cases x.getLsbD 31 <;> simp only [estimateMan, if_true, Bool.false_eq_true, if_false] <;> omega

/-! ### RCPF (41 R285) -/

section
variable {x : Ext}

theorem reciprocal_zero (h : exponent x = -128) :
    reciprocal x = (0x7F7FFFFFFF, { v := true, n := x.getLsbD 31, z := false }) := by
  simp only [reciprocal, h, if_true]
  rfl

theorem reciprocal_underflow (h : exponent x = 127) :
    reciprocal x = (0x8000000000, { uf := true, n := false, z := true }) := by
  simp only [reciprocal, h]
  rfl

theorem reciprocal_normal (h : exponent x ≠ -128) (h' : exponent x ≠ 127) : reciprocal x =
    (estimateExt (-exponent x - 1) (x.getLsbD 31) (rcpfEntry (BitVec.ofBool (x.getLsbD 31) ++ x.extractLsb' 23 8)),
      { n := x.getLsbD 31, z := false }) := by
  simp only [reciprocal, h, h', if_false, estimateExt]

theorem reciprocal_exponent_bounds (h' : exponent x ≠ 127) :
    -128 < -exponent x - 1 ∧ -exponent x - 1 ≤ 127 := by
  have := exponent_bounds x
  omega

/-- The product of an operand and its reciprocal, in units of 2^−62, is within 2^−8 of 1: the bound of the entry holds at both
ends of the inputs of its index. -/
theorem reciprocal_error (h : exponent x ≠ -128) (h' : exponent x ≠ 127) (lowest : (Num.ofExt x).man ≠ -2 ^ 32) :
    2 ^ 63 - 2 ^ 55 < (Num.ofExt x).man * (Num.ofExt (reciprocal x).1).man
      ∧ (Num.ofExt x).man * (Num.ofExt (reciprocal x).1).man < (2 : Int) ^ 63 + 2 ^ 55 := by
  obtain ⟨low, high⟩ := reciprocal_exponent_bounds h'
  obtain ⟨r, r0, r1, man⟩ := man_eq_index h
  rw [man] at lowest
  rw [reciprocal_normal h h', ofExt_estimateExt low high, man]
  dsimp only
  generalize x.extractLsb' 23 8 = f at *
  generalize x.getLsbD 31 = s at *
  by_cases edge : s = true ∧ f = 0
  · obtain ⟨rfl, rfl⟩ := edge
    rw [rcpfEntry_lowest]
    simp only [estimateMan, if_true, BitVec.ofNat_eq_ofNat, BitVec.toNat_ofNat] at lowest ⊢
    omega
  · obtain ⟨first, last⟩ := (rcpfAllowed_iff _ _ _).1 (rcpfEntry_allowed s f fun hs hf => edge ⟨hs, hf⟩)
    have entry := (rcpfEntry (BitVec.ofBool s ++ f)).isLt
    have sign : 0 < estimateMan s (rcpfEntry (BitVec.ofBool s ++ f)).toNat
        ∨ estimateMan s (rcpfEntry (BitVec.ofBool s ++ f)).toNat < 0 := by
      cases s <;> simp only [estimateMan, if_true, Bool.false_eq_true, if_false] <;> omega
    generalize estimateMan s (rcpfEntry (BitVec.ofBool s ++ f)).toNat = t at *
    generalize estimateMan s f.toNat = v at *
    rw [abs_lt] at first
    rw [abs_le] at last
    have product : (v * 2 ^ 23 + r) * (t * 2 ^ 23) = t * v * 2 ^ 46 + r * t * 2 ^ 23 := by ring
    rw [product, Int.mul_add, Int.mul_one] at *
    rcases sign with positive | negative
    · have above : 0 ≤ r * t := Int.mul_nonneg r0 positive.le
      have below : r * t < 2 ^ 23 * t := Int.mul_lt_mul_of_pos_right r1 positive
      omega
    · have above : 2 ^ 23 * t < r * t := Int.mul_lt_mul_of_neg_right r1 negative
      have below : r * t ≤ 0 := Int.mul_nonpos_of_nonneg_of_nonpos r0 negative.le
      omega

end

/-! ### RSQRF (41 R299) -/

section
variable {x : Ext} (draw : Nat)

theorem rootReciprocal_zero (h : exponent x = -128) :
    rootReciprocal draw x = (0x7F7FFFFFFF, { v := true, n := false, z := false }) := by
  simp only [rootReciprocal, h, if_true]
  rfl

theorem rootReciprocal_flags (h : exponent x ≠ -128) : (rootReciprocal draw x).2 = { n := false, z := false } := by
  simp only [rootReciprocal, h, if_false]

theorem rootReciprocal_normal (h : exponent x ≠ -128) (positive : x.getLsbD 31 = false) : (rootReciprocal draw x).1 =
    estimateExt (-(exponent x + 1) / 2) false (rsqrfEntry (BitVec.ofBool (x.getLsbD 32) ++ x.extractLsb' 23 8)) := by
  have half : (-(exponent x + 1)) >>> 1 = -(exponent x + 1) / 2 :=
    (Int.shiftRight_natCast_right _ 1).trans (Int.shiftRight_eq_div_pow _ 1)
  simp only [rootReciprocal, h, positive, Bool.false_eq_true, if_false, half]
  rfl

theorem root_exponent_bounds (x : Ext) : -128 < -(exponent x + 1) / 2 ∧ -(exponent x + 1) / 2 ≤ 127 := by
  have := exponent_bounds x
  omega

/-- The lowest bit of the exponent tells an odd from an even one. -/
theorem rootScale_eq (x : Ext) : rootScale (x.getLsbD 32) = if exponent x % 2 = 0 then 4 else 2 := by
  have lowest : x.getLsbD 32 = decide ((x.extractLsb' 32 8).toNat % 2 = 1) := by
    have bit : (x.extractLsb' 32 8).getLsbD 0 = x.getLsbD 32 := by simp
    rw [← bit, BitVec.getLsbD, Nat.testBit_zero]
  have parity : exponent x % 2 = 0 ↔ (x.extractLsb' 32 8).toNat % 2 ≠ 1 := by
    rw [exponent, BitVec.toInt_eq_toNat_cond]
    split <;> omega
  simp only [rootScale, lowest, decide_eq_true_eq, parity, ne_eq, ite_not]

theorem rootReciprocal_error (h : exponent x ≠ -128) (positive : x.getLsbD 31 = false) :
    let unit : Int := if exponent x % 2 = 0 then 2 ^ 79 else 2 ^ 78
    255 ^ 2 * unit < (Num.ofExt x).man * (Num.ofExt (rootReciprocal draw x).1).man ^ 2
      ∧ (Num.ofExt x).man * (Num.ofExt (rootReciprocal draw x).1).man ^ 2 < 257 ^ 2 * unit := by
  intro unit
  obtain ⟨low, high⟩ := root_exponent_bounds x
  obtain ⟨r, r0, r1, man⟩ := man_eq_index h
  have scaled : unit = (rootScale (x.getLsbD 32) : Int) * 2 ^ 77 := by
    rw [rootScale_eq]
    simp only [unit]
    split <;> norm_num
  obtain ⟨first, last⟩ := (rsqrfAllowed_iff _ _ _).1 (rsqrfEntry_allowed (x.getLsbD 32) (x.extractLsb' 23 8))
  rw [rootReciprocal_normal draw h positive, ofExt_estimateExt low high, man, positive, scaled]
  simp only [estimateMan, Bool.false_eq_true, if_false]
  generalize rootScale (x.getLsbD 32) = c at *
  generalize (rsqrfEntry (BitVec.ofBool (x.getLsbD 32) ++ x.extractLsb' 23 8)).toNat = t at *
  generalize (x.extractLsb' 23 8).toNat = v at *
  zify at first last
  have square : (0 : Int) < (t + 256) * (t + 256) := by positivity
  have product : ((v + 256 : Int) * 2 ^ 23 + r) * ((t + 256) * 2 ^ 23) ^ 2
      = ((t + 256) * (t + 256) * (v + 256)) * 2 ^ 69 + r * ((t + 256) * (t + 256)) * 2 ^ 46 := by ring
  have above : 0 ≤ r * ((t + 256 : Int) * (t + 256)) := Int.mul_nonneg r0 square.le
  have below : r * ((t + 256 : Int) * (t + 256)) < 2 ^ 23 * ((t + 256) * (t + 256)) := Int.mul_lt_mul_of_pos_right r1 square
  rw [product]
  constructor <;> nlinarith

end

end Sys2Proof.Machine

open Sys2Proof Sys2Proof.Machine

/-- Settles O40: RND, NORM, then the two estimates, first where the operand is special. -/
theorem roundNormalizeEstimate : Obligations.RoundNormalizeEstimate := by
  refine ⟨fun x h => roundFloat_eq (mt (exponent_eq_zero_iff x).1 h), fun x h => roundFloat_zero ((exponent_eq_zero_iff x).2 h),
    fun m k hk first => exponent_normFloat hk first, fun x k hk => ⟨normFloat_zero, normFloat_of_exponent,
      fun first he => ⟨normFloat_underflow hk first he, normFloat_normal hk first he⟩⟩, fun x draw => ?_⟩
  intro e m y z unit plain
  refine ⟨fun h => ⟨reciprocal_zero h, rootReciprocal_zero draw h⟩, fun h => ?under, rootReciprocal_flags draw,
    fun h h' => ?recip, fun h positive => ?root, reciprocal_error, rootReciprocal_error draw⟩
  case under =>
    rw [reciprocal_underflow h]
    exact ⟨rfl, rfl, rfl, rfl, rfl, rfl⟩
  case recip =>
    obtain ⟨low, high⟩ := reciprocal_exponent_bounds h'
    rw [reciprocal_normal h h']
    exact ⟨rfl, exponent_estimateExt low high _ _, sign_estimateExt _ _ _, low_estimateExt _ _ _⟩
  case root =>
    obtain ⟨low, high⟩ := root_exponent_bounds x
    rw [rootReciprocal_normal draw h positive]
    exact ⟨exponent_estimateExt low high _ _, sign_estimateExt _ _ _, low_estimateExt _ _ _⟩
end

section
/-! PROOFS. The three-operand integer and logical instructions, and the operand pair of the group in every form (O35): the two
shapes of a meaning once, where its pair is read, and each form of the pair with its memory operands in on-chip RAM. -/

namespace Sys2Proof.Machine

/-! ### The shapes, where the pair is read -/

section
variable {s u : State} {i : Instr} {dst : Reg} {o : Tri Reg} {x : Word × Word} {r : Word × Flags}
  {source : State → Tri Reg → Res (Word × Word)} (read : source s.sequenced o = .ok x u)
include read

theorem exec_ternary (op : State → Word → Word → Word × Flags)
    (meaning : exec i s = s.run fun t => t.ternary dst (source t o) (op t))
    (value : op s.sequenced x.1 x.2 = r) : exec i s = .next (u.result dst r) := by
  rw [meaning, ← value]
  exact State.run_of_ok (Res.andThen_of_ok read)

/-- The flags of such a result alone. -/
theorem exec_compareTernary (op : Word → Word → Word × Flags)
    (meaning : exec i s = s.run fun t => (source t o).andThen fun x v => v.setFlags (op x.1 x.2).2)
    (value : op x.1 x.2 = r) : exec i s = .next (u.setFlags r.2) := by
  rw [meaning, ← value]
  exact State.run_of_ok (Res.andThen_of_ok read)

end

/-! ### The operand pair in on-chip RAM (42 R330) -/

section
variable {s : State} {i j : Ind} {d e : Disp}

theorem State.fetchInd_ram (h : region s.pins.romen (s.indAddr i implied) = .ram) :
    s.fetchInd i = .ok (Memory.readWord s.mem (s.indAddr i implied)) (s.indUpdate i implied) := by
  have pins : (s.indUpdate i implied).pins = s.pins := by simp
  rw [State.fetchInd, memRead_ram (by rw [pins]; exact h), State.indUpdate_mem]

/-- Both addresses are from the old registers; neither read changes the state that the write-backs leave. -/
theorem State.fetchInd2_ram (hi : region s.pins.romen (s.indAddr i implied) = .ram)
    (lo : region s.pins.romen (s.indAddr j implied) = .ram) : s.fetchInd2 i j =
      .ok (Memory.readWord s.mem (s.indAddr i implied), Memory.readWord s.mem (s.indAddr j implied)) (s.indUpdate2 i j) := by
  have pins : (s.indUpdate2 i j).pins = s.pins := by simp
  rw [← pins] at hi lo
  rw [State.fetchInd2, memRead_ram hi, Res.bind_ok, memRead_ram lo, Res.bind_ok, State.indUpdate2_mem]

variable {ρ α : Type} (reg : ρ → α) (word : Word → α) (imm : BitVec 8 → α)

theorem State.operands3_indReg (h : region s.pins.romen (s.indAddr i implied) = .ram) (b : ρ) :
    s.operands3 reg word imm (.indReg i b) =
      .ok (word (Memory.readWord s.mem (s.indAddr i implied)), reg b) (s.indUpdate i implied) := by
  rw [State.operands3, State.fetchInd_ram h, Res.bind_ok]

theorem State.operands3_regInd (h : region s.pins.romen (s.indAddr j implied) = .ram) (a : ρ) :
    s.operands3 reg word imm (.regInd a j) =
      .ok (reg a, word (Memory.readWord s.mem (s.indAddr j implied))) (s.indUpdate j implied) := by
  rw [State.operands3, State.fetchInd_ram h, Res.bind_ok]

theorem State.operands3_indInd (hi : region s.pins.romen (s.indAddr i implied) = .ram)
    (lo : region s.pins.romen (s.indAddr j implied) = .ram) : s.operands3 reg word imm (.indInd i j) =
      .ok (word (Memory.readWord s.mem (s.indAddr i implied)), word (Memory.readWord s.mem (s.indAddr j implied)))
        (s.indUpdate2 i j) := by
  rw [State.operands3, State.fetchInd2_ram hi lo, Res.bind_ok]

theorem State.operands3_regDisp (h : region s.pins.romen (s.dispAddr d) = .ram) (a : ρ) :
    s.operands3 reg word imm (.regDisp a d) = .ok (reg a, word (Memory.readWord s.mem (s.dispAddr d))) s := by
  rw [State.operands3, memRead_ram h, Res.bind_ok]

theorem State.operands3_dispImm (h : region s.pins.romen (s.dispAddr d) = .ram) (k : BitVec 8) :
    s.operands3 reg word imm (.dispImm d k) = .ok (word (Memory.readWord s.mem (s.dispAddr d)), imm k) s := by
  rw [State.operands3, memRead_ram h, Res.bind_ok]

theorem State.operands3_dispDisp (hd : region s.pins.romen (s.dispAddr d) = .ram)
    (he : region s.pins.romen (s.dispAddr e) = .ram) : s.operands3 reg word imm (.dispDisp d e) =
      .ok (word (Memory.readWord s.mem (s.dispAddr d)), word (Memory.readWord s.mem (s.dispAddr e))) s := by
  rw [State.operands3, memRead_ram hd, Res.bind_ok, memRead_ram he, Res.bind_ok]

end

end Sys2Proof.Machine

open Sys2Proof Sys2Proof.Machine

/-- Settles O35: instruction by instruction, the pair read and the value of its operation; then the pair form by form. -/
theorem threeOperandInteger : Obligations.ThreeOperandInteger := by
  refine ⟨fun s u dst o a b read => ?instructions, fun s x y m n i j k d e => ?pairs⟩
  case instructions =>
    intro ovm c
    refine ⟨?addi3, ?addc3, ?subi3, ?subb3, ?mpyi3, ?mpyshi3, ?mpyuhi3,
      ?and3, ?andn3, ?or3, ?xor3, ?ash3, ?lsh3, ?cmpi3, ?tstb3⟩
    case addi3 => exact exec_ternary read (fun t => addInt t.ovm false) rfl (addInt_false _ _ _)
    case addc3 => exact exec_ternary read (fun t => addInt t.ovm t.carry) rfl (addInt_eq _ _ _ _)
    case subi3 => exact exec_ternary read (fun t => subInt t.ovm false) rfl (subInt_false _ _ _)
    case subb3 => exact exec_ternary read (fun t => subInt t.ovm t.carry) rfl (subInt_eq _ _ _ _)
    case mpyi3 => exact exec_ternary read (fun t => mulInt t.ovm) rfl (mulInt_eq _ _ _)
    case mpyshi3 => exact exec_ternary read (fun _ => mulHighSigned) rfl (mulHighSigned_eq _ _)
    case mpyuhi3 => exact exec_ternary read (fun _ => mulHighUnsigned) rfl (mulHighUnsigned_eq _ _)
    case and3 => exact exec_ternary read (fun _ a b => plainFlags (a &&& b)) rfl (plainFlags_eq _)
    case andn3 => exact exec_ternary read (fun _ a b => plainFlags (a &&& ~~~b)) rfl (plainFlags_eq _)
    case or3 => exact exec_ternary read (fun _ a b => plainFlags (a ||| b)) rfl (plainFlags_eq _)
    case xor3 => exact exec_ternary read (fun _ a b => plainFlags (a ^^^ b)) rfl (plainFlags_eq _)
    case ash3 => exact exec_ternary read (fun _ => ashInt) rfl rfl
    case lsh3 => exact exec_ternary read (fun _ => lshInt) rfl rfl
    case cmpi3 => exact exec_compareTernary read (subInt false false) rfl (subInt_false _ _ _)
    case tstb3 => exact exec_compareTernary read (fun a b => plainFlags (a &&& b)) rfl (plainFlags_eq _)
  case pairs =>
    intro p q f g at' wide ram
    refine ⟨rfl, rfl, rfl, ?indReg, ?regInd, ?indInd, ?oneDisp, ?dispDisp⟩
    case indReg => exact fun hp => ⟨State.operands3_indReg _ _ _ hp y, State.operands3_indReg _ _ _ hp n⟩
    case regInd => exact fun hq => ⟨State.operands3_regInd _ _ _ hq x, State.operands3_regInd _ _ _ hq m⟩
    case indInd => exact fun hp hq => ⟨State.operands3_indInd _ _ _ hp hq, State.operands3_indInd _ _ _ hp hq⟩
    case oneDisp =>
      exact fun hf => ⟨State.operands3_regDisp _ _ _ hf x, State.operands3_regDisp _ _ _ hf m,
        State.operands3_dispImm _ _ _ hf k⟩
    case dispDisp => exact fun hf hg => ⟨State.operands3_dispDisp _ _ _ hf hg, State.operands3_dispDisp _ _ _ hf hg⟩
end

section
/-! PROOFS. Sequencing: the repeat mode (O10, O11) and the delay slots (O12). -/

namespace Sys2Proof.Machine

/-! ### One fetch in each mode (43 R370, R380) -/

/-- The state on which the program counter advances: one draw made, no access waiting. -/
def State.drawn (s : State) : State := { s with draws := s.draws + 1, waiting := none }

theorem State.sequenced_eq_advance {s : State} (free : s.delay = none) : s.sequenced = s.drawn.advance := by
  unfold State.sequenced
  dsimp only
  split
  case h_1 => rfl
  case h_2 flight => cases free.symm.trans flight

section
variable {s : State} (free : s.delay = none)
include free

/-- Outside a repeat mode the next word follows. -/
theorem State.sequenced_plain (off : s.repeatMode = false) :
    s.sequenced = { s.drawn with pc := s.pc + 1, irHeld := false } :=
  (State.sequenced_eq_advance free).trans (if_neg (Bool.eq_false_iff.1 off))

/-- So it does inside a repeated block. -/
theorem State.sequenced_inside (on : s.repeatMode = true) (block : s.repeatSingle = false) (inside : s.pc ≠ s.re) :
    s.sequenced = { s.drawn with pc := s.pc + 1 } :=
  (State.sequenced_eq_advance free).trans ((if_pos on).trans ((if_neg (Bool.eq_false_iff.1 block)).trans (if_neg inside)))

theorem State.sequenced_blockEnd (on : s.repeatMode = true) (block : s.repeatSingle = false) (last : s.pc = s.re) :
    s.sequenced = s.drawn.advanceBlock :=
  (State.sequenced_eq_advance free).trans ((if_pos on).trans ((if_neg (Bool.eq_false_iff.1 block)).trans (if_pos last)))

/-- The end of a block goes back to RS while the decremented RC is not negative. -/
theorem State.sequenced_blockAgain (on : s.repeatMode = true) (block : s.repeatSingle = false) (last : s.pc = s.re)
    (more : (s.rc - 1).msb = false) : s.sequenced = { s.drawn with rc := s.rc - 1, pc := s.rs } :=
  (State.sequenced_blockEnd free on block last).trans (if_neg (Bool.eq_false_iff.1 more))

/-- The last pass of a block ends the repeat mode. -/
theorem State.sequenced_blockDone (on : s.repeatMode = true) (block : s.repeatSingle = false) (last : s.pc = s.re)
    (done : (s.rc - 1).msb = true) : s.sequenced = { s.drawn with
      rc := if s.rs = s.re then s.drawn.finalRc else 0, st := putBit s.st 8 false, repeatSingle := false, pc := s.pc + 1 } :=
  (State.sequenced_blockEnd free on block last).trans (if_pos done)

theorem State.sequenced_single (on : s.repeatMode = true) (single : s.repeatSingle = true) :
    s.sequenced = s.drawn.advanceSingle :=
  (State.sequenced_eq_advance free).trans ((if_pos on).trans (if_pos single))

/-- RPTS stays on its instruction while the decremented RC is not negative. -/
theorem State.sequenced_singleAgain (on : s.repeatMode = true) (single : s.repeatSingle = true)
    (more : (s.rc - 1).msb = false) : s.sequenced = { s.drawn with rc := s.rc - 1, irHeld := true } :=
  (State.sequenced_single free on single).trans (if_neg (Bool.eq_false_iff.1 more))

/-- The last pass of RPTS ends the repeat mode. -/
theorem State.sequenced_singleDone (on : s.repeatMode = true) (single : s.repeatSingle = true)
    (done : (s.rc - 1).msb = true) : s.sequenced = { s.drawn with
      rc := s.drawn.finalRc, st := putBit s.st 8 false, repeatSingle := false, irHeld := false, pc := s.pc + 1 } :=
  (State.sequenced_single free on single).trans (if_pos done)

end

theorem State.repeatMode_of_cleared {s t : State} (h : s.st = putBit t.st 8 false) : s.repeatMode = false := by
  rw [State.repeatMode, State.stBit, h, putBit_getLsbD _ _ _ _ (by decide), if_pos rfl]

/-! ### The slots of a delayed branch (43 R380) -/

section
variable (s : State) (dest : Word) (a : Bool) (k : DelayKind)

theorem State.sequenced_delayed :
    (s.delayed dest a k).sequenced = { s.drawn with delay := some ⟨.two, dest, a, k⟩, pc := s.pc + 1 } := rfl

theorem State.sequenced_delayed_twice : (s.delayed dest a k).sequenced.sequenced =
    { s.drawn.drawn with delay := some ⟨.one, dest, a, k⟩, pc := s.pc + 1 + 1 } := rfl

/-- Behind the third slot the program is at the target. -/
theorem State.sequenced_delayed_thrice : (s.delayed dest a k).sequenced.sequenced.sequenced =
    { s.drawn.drawn.drawn with delay := none, pc := dest } := rfl

end

/-! ### A repeat of one instruction (43 R372) -/

/-- RPTS repeats the instruction at `pc`, `n` times more after the next one. -/
structure State.Repeating (s : State) (pc : Word) (n : Nat) : Prop where
  free : s.delay = none
  on : s.repeatMode = true
  single : s.repeatSingle = true
  here : s.pc = pc
  count : s.rc.toNat = n
  nonneg : s.rc.msb = false

theorem State.Repeating.sequenced_succ {s : State} {pc : Word} {n : Nat} (h : s.Repeating pc (n + 1)) :
    s.sequenced.Repeating pc n := by
  have small : s.rc.toNat < 2 ^ 31 := by simpa [BitVec.msb_eq_decide] using h.nonneg
  have less : (s.rc - 1).toNat = n := by
    have := h.count
    rw [BitVec.toNat_sub]
    simp
    omega
  have more : (s.rc - 1).msb = false := by
    have := h.count
    rw [BitVec.msb_eq_decide, less, decide_eq_false_iff_not]
    omega
  rw [State.sequenced_singleAgain h.free h.on h.single more]
  exact ⟨h.free, h.on, h.single, h.here, less, more⟩

theorem State.Repeating.sequenced_zero {s : State} {pc : Word} (h : s.Repeating pc 0) :
    s.sequenced.pc = pc + 1 ∧ s.sequenced.repeatMode = false := by
  have zero : s.rc = 0 := BitVec.eq_of_toNat_eq h.count
  have done : (s.rc - 1).msb = true := by rw [zero]; decide
  rw [State.sequenced_singleDone h.free h.on h.single done]
  exact ⟨congrArg (· + 1) h.here, State.repeatMode_of_cleared rfl⟩

/-- Each of the next passes counts RC down by one. -/
theorem State.Repeating.iterate {s : State} {pc : Word} {n k : Nat} (h : s.Repeating pc n) (hk : k ≤ n) :
    (State.sequenced^[k] s).Repeating pc (n - k) := by
  induction k with
  | zero => exact h
  | succ k ih =>
    have before := ih (by omega)
    rw [show n - k = n - (k + 1) + 1 by omega] at before
    rw [Function.iterate_succ_apply']
    exact before.sequenced_succ

end Sys2Proof.Machine

open Sys2Proof Sys2Proof.Machine

/-- Settles O10: the fetch outside a repeat mode, in a block, and under RPTS. -/
theorem repeatAlgorithm : Obligations.RepeatAlgorithm := by
  refine fun s free => ⟨fun off => ?_, fun on block => ⟨fun inside => ?_, fun last more => ?_, fun last done => ?_⟩,
    fun on single => ⟨fun more => ?_, fun done => ?_⟩⟩
  · rw [State.sequenced_plain free off]
    exact ⟨rfl, rfl, rfl⟩
  · rw [State.sequenced_inside free on block inside]
    exact ⟨rfl, rfl, on⟩
  · rw [State.sequenced_blockAgain free on block last more]
    exact ⟨rfl, rfl, on⟩
  · rw [State.sequenced_blockDone free on block last done]
    exact ⟨rfl, State.repeatMode_of_cleared rfl, fun several => if_neg several⟩
  · rw [State.sequenced_singleAgain free on single more]
    exact ⟨rfl, rfl, on, rfl⟩
  · rw [State.sequenced_singleDone free on single done]
    exact ⟨rfl, State.repeatMode_of_cleared rfl, rfl⟩

/-- Settles O11: RC counts down to 0 on the same instruction, and the pass behind that ends the repeat. -/
theorem repeatCount : Obligations.RepeatCount := by
  intro s free on single nonneg
  have start : s.Repeating s.pc s.rc.toNat := ⟨free, on, single, rfl, rfl, nonneg⟩
  refine ⟨fun k hk => ?_, ?_⟩
  · have now := start.iterate hk
    exact ⟨now.here, now.count, now.on⟩
  · have last := start.iterate le_rfl
    rw [Nat.sub_self] at last
    rw [Function.iterate_succ_apply']
    exact last.sequenced_zero

/-- Settles O12: the three slots in turn. -/
theorem delaySlots : Obligations.DelaySlots := by
  intro s dest a k t
  rw [s.sequenced_delayed_thrice, s.sequenced_delayed_twice, s.sequenced_delayed]
  have second : s.pc + 1 + 1 = s.pc + 2 := BitVec.add_assoc _ _ _
  exact ⟨rfl, rfl, second, rfl, rfl, rfl, rfl⟩
end

section
/-! PROOFS. The delayed branches and their annulled slots (O42), and the jumps with a link (O43). -/

namespace Sys2Proof.Machine

section
variable (s : State) (c : Cond) (a : Target) (d : BitVec 24)

/-- BRD goes to its target behind the slots (43 R365). -/
theorem exec_brd : exec (.brd d) s = .next (s.sequenced.delayed (target24 s.pc 3 d) false .branch) := rfl

/-- BcondD goes there, or on behind the slots (43 R364). -/
theorem exec_bCondD : exec (.bCondD c a) s = .next
    (s.sequenced.delayed (if s.sequenced.cond c then s.sequenced.target s.pc 3 a else s.pc + 4) false .branch) := rfl

/-- BcondAF annuls the slots where it does not branch (43 R362). -/
theorem exec_bCondAf : exec (.bCondAf c a) s = .next
    (if s.sequenced.cond c then s.sequenced.delayed (s.sequenced.target s.pc 3 a) false .branch
     else s.sequenced.delayed (s.pc + 4) true .branch) := rfl

/-- BcondAT annuls them where it does (43 R363). -/
theorem exec_bCondAt : exec (.bCondAt c a) s = .next
    (if s.sequenced.cond c then s.sequenced.delayed (s.sequenced.target s.pc 3 a) true .branch
     else s.sequenced.delayed (s.pc + 4) false .branch) := rfl

/-- LAJ writes its link and goes to its target behind the slots (43 R381). -/
theorem exec_laj : exec (.laj d) s =
    .next ((s.sequenced.put (.r 11) (s.pc + 4)).delayed (target24 s.pc 3 d) false .branch) := rfl

/-- LAJcond does so where its condition is true, its target read before the link is written (43 R382). -/
theorem exec_lajCond : exec (.lajCond c a) s = .next
    (if s.sequenced.cond c then
      (s.sequenced.put (.r 11) (s.pc + 4)).delayed (s.sequenced.target s.pc 3 a) false .branch
     else s.sequenced.delayed (s.pc + 4) false .branch) := rfl

end

/-! ### The updates an annulled slot may leave (43 R385, 92 D51) -/

/-- A list of writes to registers of `m`, all of them registers that address generation uses. -/
def Updates (l : List (Reg × Word)) (m : List Reg) : Prop := ∀ x ∈ l, x.1 ∈ m ∧ ldaDestination x.1 = true

theorem Updates.nil (m : List Reg) : Updates [] m := fun _ h => absurd h List.not_mem_nil

theorem Updates.single {r : Reg} (h : ldaDestination r = true) (v : Word) (m : List Reg) : Updates [(r, v)] (r :: m) :=
  fun x hx => by
    obtain rfl := List.mem_singleton.1 hx
    exact ⟨List.mem_cons_self, h⟩

theorem Updates.mono {l : List (Reg × Word)} {m n : List Reg} (h : Updates l m) (sub : m ⊆ n) : Updates l n :=
  fun x hx => ⟨sub (h x hx).1, (h x hx).2⟩

theorem Updates.append {l k : List (Reg × Word)} {m : List Reg} (h : Updates l m) (g : Updates k m) : Updates (l ++ k) m :=
  fun x hx => (List.mem_append.1 hx).elim (h x) (g x)

theorem Updates.eq_nil {l : List (Reg × Word)} (h : Updates l []) : l = [] :=
  List.eq_nil_iff_forall_not_mem.2 fun x hx => absurd (h x hx).1 List.not_mem_nil

section
variable (s : State)

theorem State.indWrites_updates (i : Ind) (d : Word) : Updates (s.indWrites i d) (indModifies i) := by
  rcases indModifies_cases i with none | own
  · rw [State.indWrites, s.indNew_eq_none i d none]
    exact Updates.nil _
  · rw [State.indWrites, own]
    split
    · exact Updates.nil _
    · exact Updates.single rfl _ _

theorem State.pairWrites_updates (hi lo : Ind) : Updates (s.pairWrites hi lo) (indModifies hi ++ indModifies lo) :=
  ((s.indWrites_updates lo _).mono (List.subset_append_right _ _)).append
    ((s.indWrites_updates hi _).mono (List.subset_append_left _ _))

theorem State.memWrites_updates (m : Mem) : Updates (s.memWrites m) (memModifies m) := by
  cases m with
  | dir e => exact Updates.nil _
  | ind i d => exact s.indWrites_updates i _

theorem State.srcWrites_updates {ρ : Type} (o : Src ρ) : Updates (s.srcWrites o) (srcModifies o) := by
  cases o with
  | mem m => exact s.memWrites_updates m
  | reg r | imm v => exact Updates.nil _

theorem State.triWrites_updates {ρ : Type} (o : Tri ρ) : Updates (s.triWrites o) (triModifies o) := by
  cases o with
  | indReg i b => exact s.indWrites_updates i _
  | regInd a j => exact s.indWrites_updates j _
  | indInd i j => exact s.pairWrites_updates i j
  | regReg | regImm | regDisp | dispImm | dispDisp => exact Updates.nil _

/-- The write-backs of an instruction's operands are among the updates its annulled slot may leave. -/
theorem State.addressWrites_updates (i : Instr) : Updates (s.addressWrites i) (slotUpdates i) := by
  cases i with
  | lda d o => exact (s.srcWrites_updates o).mono (List.subset_cons_self d _)
  | ldi _ o | ldiCond _ _ o | absi _ o | addc _ o | addi _ o | and _ o | andn _ o | ash _ o | cmpi _ o | lb _ _ o
  | lbu _ _ o | lh _ _ o | lhu _ _ o | lsh _ o | lwl _ _ o | lwr _ _ o | mb _ _ o | mh _ _ o | mpyi _ o | mpyshi _ o
  | mpyuhi _ o | negb _ o | negi _ o | not _ o | or _ o | subb _ o | subc _ o | subi _ o | subrb _ o | subri _ o
  | tstb _ o | xor _ o | rpts o => exact s.srcWrites_updates o
  | lde _ o | ldf _ o | ldfCond _ _ o | ldm _ o | absf _ o | addf _ o | cmpf _ o | fix _ o | float _ o | mpyf _ o
  | negf _ o | norm _ o | rcpf _ o | rnd _ o | rsqrf _ o | subf _ o | subrf _ o | toieee _ o =>
    exact s.srcWrites_updates o
  | stf _ m | sti _ m | stik _ m | frieee _ m | iack m | ldfi _ m | ldii _ m | sigi _ m | stfi _ m | stii _ m =>
    exact s.memWrites_updates m
  | nop o =>
    cases o with
    | reg r => exact Updates.nil _
    | ind i d => exact s.indWrites_updates i _
  | addc3 _ o | addi3 _ o | and3 _ o | andn3 _ o | ash3 _ o | cmpi3 o | lsh3 _ o | mpyi3 _ o | mpyshi3 _ o | mpyuhi3 _ o
  | or3 _ o | subb3 _ o | subi3 _ o | tstb3 o | xor3 _ o => exact s.triWrites_updates o
  | addf3 _ o | cmpf3 o | mpyf3 _ o | subf3 _ o => exact s.triWrites_updates o
  | absfStf o | absiSti o | fixSti o | floatStf o | frieeeStf o | ldfStf o | ldiSti o | negfStf o | negiSti o | notSti o
  | toieeeStf o => exact s.pairWrites_updates o.dst2 o.src2
  | addf3Stf o | addi3Sti o | and3Sti o | ash3Sti o | lsh3Sti o | mpyf3Stf o | mpyi3Sti o | or3Sti o | subf3Stf o
  | subi3Sti o | xor3Sti o => exact s.pairWrites_updates o.dst2 o.src2
  | ldfLdf o | ldiLdi o => exact s.pairWrites_updates o.src1 o.src2
  | stfStf o | stiSti o => exact s.pairWrites_updates o.dst1 o.dst2
  | mpyf3Addf3 o | mpyf3Subf3 o | mpyi3Addi3 o | mpyi3Subi3 o => exact s.pairWrites_updates o.src3 o.src4
  | _ => exact Updates.nil _

/-- So are SP of a push or pop, DP of LDPK and LDP, and the destination of a well-formed LDA. -/
theorem State.earlyWrites_updates {i : Instr} (wf : i.wellFormed = true) : Updates (s.earlyWrites i) (slotUpdates i) := by
  cases i with
  | push | pushf | pop | popf | ldpk | ldp => exact Updates.single rfl _ _
  | lda d o =>
    rw [State.earlyWrites]
    split
    · exact Updates.single wf _ _
    · exact Updates.nil _
  | _ => exact Updates.nil _

variable {s}

/-- A register that LDA may load is none of the other ones. -/
theorem State.put_shape {r : Reg} (h : ldaDestination r = true) (v : Word) : ∃ ar dp ir0 ir1 bk sp,
    s.put r v = { s with ar := ar, dp := dp, ir0 := ir0, ir1 := ir1, bk := bk, sp := sp } := by
  cases r with
  | ar | dp | ir0 | ir1 | bk | sp => exact ⟨_, _, _, _, _, _, rfl⟩
  | _ => cases h

variable {l : List (Reg × Word)} {m : List Reg} (draw k : Nat) (h : Updates l m)
include h

/-- The updates that survive change no other part of the state. -/
theorem State.survive_shape : ∃ ar dp ir0 ir1 bk sp,
    s.survive draw k l = { s with ar := ar, dp := dp, ir0 := ir0, ir1 := ir1, bk := bk, sp := sp } := by
  induction l generalizing s k with
  | nil => exact ⟨_, _, _, _, _, _, rfl⟩
  | cons x l ih =>
    have rest : Updates l m := fun y hy => h y (List.mem_cons_of_mem _ hy)
    obtain ⟨_, _, _, _, _, _, first⟩ : ∃ ar dp ir0 ir1 bk sp, (if Config.annulSideEffect draw k then s.put x.1 x.2 else s)
        = { s with ar := ar, dp := dp, ir0 := ir0, ir1 := ir1, bk := bk, sp := sp } := by
      split
      · exact State.put_shape (h x List.mem_cons_self).2 _
      · exact ⟨_, _, _, _, _, _, rfl⟩
    rw [State.survive, first]
    exact ih _ rest

theorem State.survive_stored {r : Reg} (hr : r ∉ m) : (s.survive draw k l).stored r = s.stored r := by
  induction l generalizing s k with
  | nil => rfl
  | cons x l ih =>
    have rest : Updates l m := fun y hy => h y (List.mem_cons_of_mem _ hy)
    have other : r ≠ x.1 := fun e => hr (e ▸ (h x List.mem_cons_self).1)
    rw [State.survive, ih _ rest]
    split
    · exact s.stored_put _ _ _ other
    · rfl

end

end Sys2Proof.Machine

open Sys2Proof Sys2Proof.Machine

/-- Settles O42: each branch with either value of its condition, then the updates of an annulled slot. -/
theorem delayedBranches : Obligations.DelayedBranches := by
  refine fun s c r d e => ⟨exec_brd s e, fun taken => ?_, fun passed a => ?_, fun i wf => ?_⟩
  · simp only [exec_bCondD, exec_bCondAf, exec_bCondAt, taken, if_true]
    exact ⟨rfl, rfl, rfl, rfl, rfl, rfl⟩
  · simp only [exec_bCondD, exec_bCondAf, exec_bCondAt, passed, Bool.false_eq_true, if_false]
    exact ⟨rfl, rfl, rfl⟩
  · have updates := (s.sequenced.addressWrites_updates i).append (s.sequenced.earlyWrites_updates wf)
    refine ⟨fun none => ?_, ?_⟩
    · rw [none] at updates
      rw [State.annul, updates.eq_nil]
      rfl
    · obtain ⟨ar, dp, ir0, ir1, bk, sp, shape⟩ := State.survive_shape s.sequenced.draws 0 updates
      exact ⟨ar, dp, ir0, ir1, bk, sp, shape, fun x hx => State.survive_stored _ _ updates hx⟩

/-- Settles O43: LAJ, then LAJcond with either value of its condition. -/
theorem linkedJumps : Obligations.LinkedJumps := by
  refine fun s c r d e => ⟨exec_laj s e, fun taken => ?_, fun passed a => ?_⟩
  · simp only [exec_lajCond, taken, if_true]
    exact ⟨rfl, rfl⟩
  · simp only [exec_lajCond, passed, Bool.false_eq_true, if_false]
    rfl
end

section
/-! PROOFS. The decrementing branches (O44), the calls (O45), the returns (O46, O47) and the traps (O48). -/

namespace Sys2Proof.Machine

/-! ### Meanings that depend on a condition -/

section
variable {s u : State} {c : Cond} {f : State → Res Unit}

theorem State.run_taken {g : State → Res Unit} {x : Unit} (taken : s.sequenced.cond c = true)
    (done : f s.sequenced = .ok x u) : (s.run fun t => if t.cond c then f t else g t) = .next u :=
  State.run_of_ok ((if_pos taken).trans done)

theorem State.run_passed {g : State → State} (passed : s.sequenced.cond c = false) :
    (s.run fun t => if t.cond c then f t else .ok () (g t)) = .next (g s.sequenced) :=
  State.run_of_ok (if_neg (Bool.eq_false_iff.1 passed))

end

/-! ### Counting down (43 R377, R378) -/

/-- DBcond may branch where its register is not negative. -/
theorem State.counting_eq (s : State) (n : Fin 8) : s.counting n = decide (0 ≤ (s.ar[n]).toInt) := by
  rw [State.counting, BitVec.msb_eq_toInt, ← decide_not]
  simp only [Int.not_lt]

section
variable {s u : State} {n : Fin 8} (counted : s.sequenced.decrement n = u) (c : Cond) (a : Target)
include counted

/-- DBcond branches where its condition is true and the count allows it, else goes on. -/
theorem exec_dbCond : exec (.dbCond n c a) s =
    .next (if s.sequenced.cond c && decide (0 ≤ (u.ar[n]).toInt) then u.jump (u.target s.pc 1 a) else u) := by
  subst counted
  rw [← State.counting_eq]
  rfl

/-- DBcondD does so behind its slots. -/
theorem exec_dbCondD : exec (.dbCondD n c a) s = .next (u.delayed
    (if s.sequenced.cond c && decide (0 ≤ (u.ar[n]).toInt) then u.target s.pc 3 a else s.pc + 4) false .branch) := by
  subst counted
  rw [← State.counting_eq]
  rfl

end

/-! ### Pushing and popping (40 R217) -/

/-- A finished push leaves the new SP; what has been loaded early and the trap vector table stay. -/
theorem State.push_shape {s u : State} {v : Word} (h : s.push v = .ok () u) :
    u.sp = s.sp + 1 ∧ u.early = s.early ∧ u.tvtp = s.tvtp := by
  obtain ⟨d, m, g, b, o, rfl, -⟩ := memWrite_shape h
  exact ⟨rfl, rfl, rfl⟩

theorem State.pop_st {s u : State} {v : Word} (h : s.pop = .ok v u) : u.st = s.st := by
  obtain ⟨w, t, read, popped⟩ := Res.bind_eq_ok h
  obtain ⟨d, n, g, l, o, rfl, -⟩ := memRead_shape read
  cases popped
  rfl

/-! ### Calls (43 R375, R376) -/

section
variable {s u : State} {c : Cond}

theorem exec_call (d : BitVec 24) (pushed : s.sequenced.push (s.pc + 1) = .ok () u) :
    exec (.call d) s = .next (u.jump (target24 s.pc 1 d)) := by
  change execCall d s = _
  exact State.run_of_ok (Res.andThen_of_ok pushed)

theorem exec_callCond_taken (a : Target) (taken : s.sequenced.cond c = true)
    (pushed : s.sequenced.push (s.pc + 1) = .ok () u) : exec (.callCond c a) s = .next (u.jump (u.target s.pc 1 a)) := by
  change execCallCond c a s = _
  exact State.run_taken taken (Res.andThen_of_ok pushed)

theorem exec_callCond_passed (a : Target) (passed : s.sequenced.cond c = false) :
    exec (.callCond c a) s = .next s.sequenced := by
  change execCallCond c a s = _
  exact State.run_passed (g := id) passed

end

/-! ### Returns (43 R366, R367) -/

theorem encReturn_retsCond (v : BitVec 5) : encReturn 0b000100 v 0 = 0x78800000 ||| (v.setWidth 32 <<< 16) := by
  revert v
  decide

/-- GIE and CF come back from PGIE and PCF. -/
theorem State.restoreStatus_st_getLsbD (s : State) (b : Nat) : s.restoreStatus.st.getLsbD b =
    if b = 10 then s.st.getLsbD 9 else if b = 13 then s.st.getLsbD 14 else s.st.getLsbD b := by
  simp only [State.restoreStatus, putBit_getLsbD _ _ _ _ (show 10 < 32 by decide),
    putBit_getLsbD _ _ _ _ (show 13 < 32 by decide), State.stBit]

section
variable {s u : State} {c : Cond} {v : Word}

theorem exec_retsCond_taken (taken : s.sequenced.cond c = true) (popped : s.sequenced.pop = .ok v u) :
    exec (.retsCond c) s = .next (u.jump v) := by
  change execRetsCond c s = _
  exact State.run_taken taken (Res.andThen_of_ok popped)

theorem exec_retsCond_passed (passed : s.sequenced.cond c = false) : exec (.retsCond c) s = .next s.sequenced := by
  change execRetsCond c s = _
  exact State.run_passed (g := id) passed

/-- RETScond, where it does not wait, leaves ST as sequencing does. -/
theorem exec_retsCond_st (h : exec (.retsCond c) s = .next u) (ready : u.waiting = none) : u.st = s.sequenced.st := by
  have run : execRetsCond c s = .next u := h
  unfold execRetsCond at run
  obtain ⟨_, done⟩ | ⟨w, -, rfl⟩ := State.run_eq_next run
  · split at done
    · obtain ⟨v, t, popped, rfl⟩ := Res.andThen_eq_ok done
      exact (State.pop_st popped : t.st = _)
    · cases done
      rfl
  · cases ready

theorem State.exceptionReturn_of_pop (popped : s.pop = .ok v u) : s.exceptionReturn = .ok v u.restoreStatus := by
  rw [State.exceptionReturn, popped, Res.bind_ok]

theorem exec_retiCond_taken (taken : s.sequenced.cond c = true) (popped : s.sequenced.pop = .ok v u) :
    exec (.retiCond c) s = .next (u.restoreStatus.jump v) := by
  change execRetiCond c s = _
  exact State.run_taken taken (Res.andThen_of_ok (State.exceptionReturn_of_pop popped))

theorem exec_retiCond_passed (passed : s.sequenced.cond c = false) : exec (.retiCond c) s = .next s.sequenced := by
  change execRetiCond c s = _
  exact State.run_passed (g := id) passed

theorem exec_retiCondD_taken (taken : s.sequenced.cond c = true) (popped : s.sequenced.pop = .ok v u) :
    exec (.retiCondD c) s = .next (u.restoreStatus.delayed v false .retid) := by
  change execRetiCondD c s = _
  exact State.run_taken taken (Res.andThen_of_ok (State.exceptionReturn_of_pop popped))

theorem exec_retiCondD_passed (passed : s.sequenced.cond c = false) :
    exec (.retiCondD c) s = .next (s.sequenced.delayed (s.pc + 4) false .retid) := by
  change execRetiCondD c s = _
  exact State.run_passed (g := fun t => t.delayed (s.pc + 4) false .retid) passed

end

/-! ### Traps (43 R368, R383) -/

/-- GIE and CF are saved in PGIE and PCF, GIE is cleared, CF set. -/
theorem State.saveStatus_st_getLsbD (s : State) (b : Nat) : s.saveStatus.st.getLsbD b =
    if b = 10 then true else if b = 13 then false else if b = 9 then s.st.getLsbD 10
    else if b = 14 then s.st.getLsbD 13 else s.st.getLsbD b := by
  simp only [State.saveStatus, putBit_getLsbD _ _ _ _ (show 9 < 32 by decide),
    putBit_getLsbD _ _ _ _ (show 10 < 32 by decide), putBit_getLsbD _ _ _ _ (show 13 < 32 by decide),
    putBit_getLsbD _ _ _ _ (show 14 < 32 by decide), State.gie, State.cacheFrozen, State.stBit]

section
variable {s u w : State} {c : Cond} {n : BitVec 9} {v : Word}

theorem State.trap_of_ok {ret : Word} (pushed : s.saveStatus.push ret = .ok () u)
    (read : memRead .plain (vectorAddress s.tvtp n) u = .ok v w) : s.trap n ret = .ok () (w.jump v) := by
  obtain ⟨-, -, table⟩ := State.push_shape pushed
  rw [State.trap, pushed, Res.bind_ok, table, State.saveStatus_tvtp, read, Res.bind_ok]
  rfl

theorem exec_trapCond_taken (taken : s.sequenced.cond c = true) (pushed : s.sequenced.saveStatus.push (s.pc + 1) = .ok () u)
    (read : memRead .plain (vectorAddress s.sequenced.tvtp n) u = .ok v w) :
    exec (.trapCond c n) s = .next (w.jump v) := by
  change execTrapCond c n s = _
  exact State.run_taken taken (State.trap_of_ok pushed read)

theorem exec_trapCond_passed (passed : s.sequenced.cond c = false) : exec (.trapCond c n) s = .next s.sequenced := by
  change execTrapCond c n s = _
  exact State.run_passed (g := id) passed

theorem exec_latCond_taken (taken : s.sequenced.cond c = true)
    (read : memRead .plain (vectorAddress s.sequenced.tvtp n) (s.sequenced.saveStatus.put (.r 11) (s.pc + 4)) = .ok v w) :
    exec (.latCond c n) s = .next (w.delayed v false .trap) := by
  change execLatCond c n s = _
  exact State.run_taken taken (Res.andThen_of_ok read)

theorem exec_latCond_passed (passed : s.sequenced.cond c = false) :
    exec (.latCond c n) s = .next (s.sequenced.delayed (s.pc + 4) false .trap) := by
  change execLatCond c n s = _
  exact State.run_passed (g := fun t => t.delayed (s.pc + 4) false .trap) passed

end

end Sys2Proof.Machine

open Sys2Proof Sys2Proof.Machine

/-- Settles O44: where the condition and the count both let DBcond branch, and where one of them does not. -/
theorem decrementBranches : Obligations.DecrementBranches := by
  intro s n c r d t v u slots
  have counted : t.decrement n = u := by simp only [State.decrement, t, u, v, State.sequenced_ar]
  have count : u.ar[n] = v := by simp [u]
  refine ⟨fun taken nonneg => ?_, fun stays a => ?_⟩
  · have go : (t.cond c && decide (0 ≤ (u.ar[n]).toInt)) = true := by simp [taken, count, nonneg]
    rw [exec_dbCond counted, exec_dbCond counted, exec_dbCondD counted, exec_dbCondD counted, go]
    exact ⟨rfl, rfl, rfl, rfl⟩
  · have stay : (t.cond c && decide (0 ≤ (u.ar[n]).toInt)) = false := by
      rw [count]
      rcases stays with untrue | negative
      · simp [untrue]
      · simp [negative]
    rw [exec_dbCond counted, exec_dbCondD counted, stay]
    exact ⟨rfl, rfl⟩

/-- Settles O45: the push of each call finishes it; SP as a target gives the SP that the push leaves. -/
theorem calls : Obligations.Calls := by
  refine fun s u c r d e => ⟨fun written => ?_, fun passed a => exec_callCond_passed a passed⟩
  have pushed : s.sequenced.push (s.pc + 1) = .ok () u := written
  refine ⟨exec_call e pushed, fun taken => ⟨exec_callCond_taken (.rel d) taken pushed,
    exec_callCond_taken (.reg r) taken pushed, fun late => ?_⟩⟩
  obtain ⟨sp, early, -⟩ := State.push_shape pushed
  have target : u.get .sp = s.sequenced.sp + 1 := by
    rw [State.get, State.newest_of_none (by rw [early, State.sequenced_early, late]), sp]
  rw [exec_callCond_taken (.reg .sp) taken pushed, State.target, target]
  rfl

/-- Settles O46: the word, the sequencing outside repeats and slots, the pop, and ST. -/
theorem subroutineReturn : Obligations.SubroutineReturn := by
  refine fun s u c => ⟨encReturn_retsCond _, fun free off => ?_, fun v taken read => ?_, exec_retsCond_passed,
    fun v next ready => exec_retsCond_st next ready⟩
  · rw [State.sequenced_plain free off]
    exact ⟨rfl, rfl⟩
  · exact exec_retsCond_taken taken (State.pop_of_read read)

/-- Settles O47: both forms restore the status of one popped state. -/
theorem exceptionReturns : Obligations.ExceptionReturns := by
  refine fun s u c v => ⟨fun taken read => ?_, fun passed => ⟨exec_retiCond_passed passed, exec_retiCondD_passed passed⟩⟩
  have popped := State.pop_of_read read
  have bit := State.restoreStatus_st_getLsbD { u with sp := u.sp - 1 }
  refine ⟨({ u with sp := u.sp - 1 } : State).restoreStatus, exec_retiCond_taken taken popped,
    exec_retiCondD_taken taken popped, rfl, bit 13, bit 10, fun b gie cf => ?_⟩
  rw [bit, if_neg cf, if_neg gie]

/-- Settles O48: the saved status bit by bit, then each trap with either value of its condition. -/
theorem traps : Obligations.Traps := by
  intro s u w c n v t
  have bit := State.saveStatus_st_getLsbD t
  refine ⟨⟨t.saveStatus.st, bit 14, bit 9, bit 13, bit 10, fun b kept => ?_,
    fun taken pushed read => exec_trapCond_taken taken pushed read, fun taken read => exec_latCond_taken taken read⟩,
    fun passed => ⟨exec_trapCond_passed passed, exec_latCond_passed passed⟩⟩
  simp only [List.mem_cons, List.not_mem_nil, or_false, not_or] at kept
  obtain ⟨pcf, cf, gie, pgie⟩ := kept
  rw [bit, if_neg cf, if_neg gie, if_neg pcf, if_neg pgie]
end

section
/-! PROOFS. The repeat set-ups (O49), and NOP, IACK and the waiting instructions (O50). -/

namespace Sys2Proof.Machine

section
variable (s : State)

/-- RPTB repeats from the next instruction on (43 R371). -/
theorem exec_rptb (e : BlockEnd) :
    exec (.rptb e) s = .next (s.sequenced.repeatBlock (s.pc + 1) (s.sequenced.blockEnd s.pc 1 e)) := rfl

/-- RPTBD repeats from behind its slots on (43 R373). -/
theorem exec_rptbd (e : BlockEnd) : exec (.rptbd e) s =
    .next ((s.sequenced.repeatBlock (s.pc + 4) (s.sequenced.blockEnd s.pc 3 e)).delayed (s.pc + 4) false .rptbd) := rfl

theorem exec_nop_reg (r : Reg) : exec (.nop (.reg r)) s = .next s.sequenced := rfl

theorem exec_idle : exec .idle s = .next (s.sequenced.wait .idle) := rfl

theorem exec_idle2 : exec .idle2 s = .next (s.sequenced.wait .idle2) := rfl

end

section
variable {s u : State} {w : Word}

/-- RPTS repeats the next instruction alone (43 R372). -/
theorem exec_rpts {src : Src Reg} (read : s.sequenced.sourceUint src = .ok w u) : exec (.rpts src) s = .next
    { u with rc := w, rs := s.pc + 1, re := s.pc + 1, st := putBit u.st 8 true, repeatSingle := true, irHeld := false } := by
  change execRpts src s = _
  exact State.run_of_ok (Res.andThen_of_ok read)

theorem exec_nop_ind {i : Ind} {d : BitVec 8} (read : s.sequenced.fetch .plain (.ind i d) = .ok w u) :
    exec (.nop (.ind i d)) s = .next u := by
  change execNop (.ind i d) s = _
  exact State.run_of_ok (Res.andThen_of_ok read)

/-- Neither the fall of IACK# nor sequencing moves an operand. -/
theorem State.memAddr_iackFall_sequenced (s : State) (a : Word) (m : Mem) :
    (s.iackFall a).sequenced.memAddr m = s.memAddr m :=
  State.memAddr_eq_of_ar m (by simp) (by simp) (by simp) (by simp)

/-- IACK lets IACK# rise behind its read (43 R379). -/
theorem exec_iack {m : Mem} (read : (s.iackFall (s.memAddr m)).sequenced.fetch .plain m = .ok w u) :
    exec (.iack m) s = .next (u.iackRise (s.memAddr m)) := by
  change execIack m s = _
  rw [← s.memAddr_iackFall_sequenced (s.memAddr m) m]
  exact State.run_of_ok (Res.andThen_of_ok read)

theorem State.fetch_pins {k : Access} {m : Mem} (h : s.fetch k m = .ok w u) : u.pins = s.pins := by
  obtain ⟨_, _, _, _, _, _, _, rfl, -⟩ := State.fetch_accesses h
  rfl

end

end Sys2Proof.Machine

open Sys2Proof Sys2Proof.Machine

/-- Settles O49: both block forms with either end, then RPTS. -/
theorem repeats : Obligations.Repeats := fun s r d =>
  ⟨exec_rptb s (.rel d), exec_rptb s (.reg r), exec_rptbd s (.rel d), exec_rptbd s (.reg r), fun _ _ _ read => exec_rpts read⟩

/-- Settles O50: the two forms of NOP, IACK with its pulse, the addresses that it pulses for, and the waiting instructions. -/
theorem idleAndNop : Obligations.IdleAndNop := by
  refine fun s u => ⟨exec_nop_reg s, fun i d w read => exec_nop_ind read, fun m w => ?_, s.onBus_eq,
    exec_idle s, exec_idle2 s⟩
  intro a low read
  have pins : u.pins = s.pins := (State.fetch_pins (s := (s.iackFall a).sequenced) read).trans (by simp)
  have outside : u.onBus a = s.onBus a := by rw [State.onBus_eq, State.onBus_eq, pins]
  rw [exec_iack read, State.iackRise, outside]
end

section
/-! PROOFS. The parallel instructions (O52–O55): each shape of Forms.lean once, where its accesses finish, then the value of
each operation in the terms of the statements. -/

namespace Sys2Proof.Machine

/-! ### An operation with a store (45 R440) -/

section
variable {s w u : State} {i : Instr} {src2 dst2 : Ind} {stored : State → Word} {x : Word}
  (read : memRead .plain (s.sequenced.indAddr src2 implied) (s.sequenced.indUpdate2 dst2 src2) = .ok x w)
  (written : memWrite .plain (s.sequenced.indAddr dst2 implied) (stored s.sequenced) w = .ok () u)
include read written

/-- The first half's result is written behind the read and the write. -/
theorem exec_withStore (f : State → Word → State → State)
    (meaning : exec i s = s.run fun t => t.withStore src2 dst2 (stored t) (f t)) :
    exec i s = .next (f s.sequenced x u) := by
  have finished : s.sequenced.withStore src2 dst2 (stored s.sequenced) (f s.sequenced) = .ok () (f s.sequenced x u) := by
    rw [State.withStore, read, Res.bind_ok, written, Res.bind_ok]
  rw [meaning, State.run_of_ok finished]

/-- An integer result. -/
theorem exec_storeResult {dst : Reg} {r : Word × Flags} (op : State → Word → Word × Flags)
    (meaning : exec i s = s.run fun t => t.withStore src2 dst2 (stored t) fun x v => v.result dst (op t x))
    (value : op s.sequenced x = r) : exec i s = .next (u.result dst r) := by
  rw [exec_withStore read written _ meaning, value]

/-- A floating-point result. -/
theorem exec_storeResultF {dst : FReg} {r : Ext × Flags} (op : State → Word → Ext × Flags)
    (meaning : exec i s = s.run fun t => t.withStore src2 dst2 (stored t) fun x v => v.resultF dst (op t x))
    (value : op s.sequenced x = r) : exec i s = .next (u.resultF dst r) := by
  rw [exec_withStore read written _ meaning, value]

end

/-! ### Two reads, two stores (45 R459, R460, R465, R466) -/

section
variable {s w u : State} {i : Instr}

/-- What an instruction does behind its two reads: two loads, or a multiply-add pair. -/
theorem exec_fetchInd2 {hi lo : Ind} {x : Word × Word} (read : s.sequenced.fetchInd2 hi lo = .ok x u)
    (f : State → Word × Word → State → State)
    (meaning : exec i s = s.run fun t => (t.fetchInd2 hi lo).andThen (f t)) : exec i s = .next (f s.sequenced x u) := by
  rw [meaning]
  exact State.run_of_ok (Res.andThen_of_ok read)

theorem exec_storePair {o : ParStores} (v1 v2 : State → Word)
    (first : memWrite .plain (s.sequenced.indAddr o.dst1 implied) (v1 s.sequenced)
      (s.sequenced.indUpdate2 o.dst1 o.dst2) = .ok () w)
    (second : memWrite .plain (s.sequenced.indAddr o.dst2 implied) (v2 s.sequenced) w = .ok () u)
    (meaning : exec i s = s.run fun t => t.storePair o (v1 t) (v2 t)) : exec i s = .next u := by
  have finished : s.sequenced.storePair o (v1 s.sequenced) (v2 s.sequenced) = .ok () u := by
    rw [State.storePair, first, Res.bind_ok, second]
  rw [meaning, State.run_of_ok finished]

end

/-! ### Multiply-add pairs (45 R467–R470) -/

/-- C of the sum does not enter the flags of a pair: they leave C unchanged. -/
theorem pairFlags_intOutcome (f : Flags) (ovm : Bool) (r : Int) (c : Option Bool) :
    pairFlags f (intOutcome ovm r c).2 = pairFlags f (intOutcome ovm r none).2 := rfl

section
variable {s u : State} {i : Instr} {o : MulAdd} {x y : Word} (read : s.sequenced.fetchInd2 o.src3 o.src4 = .ok (x, y) u)
include read

/-- An integer pair whose sum is an exact integer. -/
theorem exec_mulAddI {q : (Word × Word) × (Word × Word)} {sum : Int} {c : Option Bool}
    (add : State → Word → Word → Word × Flags) (meaning : exec i s = s.run fun t => t.mulAddI o (add t))
    (routed : route o.p (s.sequenced.get (regOf o.src1)) (s.sequenced.get (regOf o.src2)) x y = q)
    (value : add s.sequenced q.2.1 q.2.2 = intOutcome s.sequenced.ovm sum c) :
    let m := intOutcome s.sequenced.ovm (q.1.1.toInt * q.1.2.toInt) none
    let a := intOutcome s.sequenced.ovm sum none
    exec i s
      = .next (((u.setFlags (pairFlags m.2 a.2)).put (.r (productReg o)) m.1).put (.r (sumReg o)) a.1) := by
  intro m a
  rw [exec_fetchInd2 read _ meaning, routed]
  dsimp only
  rw [value, mulInt_eq, pairFlags_intOutcome]
  rfl

theorem exec_mulAddF {q : (Ext × Ext) × (Ext × Ext)} (add : Ext → Ext → Ext × Flags)
    (meaning : exec i s = s.run fun t => t.mulAddF o add)
    (routed : route o.p (s.sequenced.getF (fregOf o.src1)) (s.sequenced.getF (fregOf o.src2)) (singleToExtended x)
      (singleToExtended y) = q) :
    let m := floatMul q.1.1 q.1.2
    let a := add q.2.1 q.2.2
    exec i s = .next (((u.setFlags (pairFlags m.2 a.2)).putF (productReg o) m.1).putF (sumReg o) a.1) := by
  intro m a
  rw [exec_fetchInd2 read _ meaning, routed]

end

end Sys2Proof.Machine

open Sys2Proof Sys2Proof.Machine

/-- Settles O52: the accesses in the order of the shapes, and what is loaded written behind them. -/
theorem parallelMoves : Obligations.ParallelMoves := by
  intro s u t
  refine ⟨fun o x y read => ⟨?ldfLdf, ?ldiLdi⟩, fun o x w read written => ?ldfStf, fun o x w read written => ?ldiSti,
    fun o w first second => ?stfStf, fun o w first second => ?stiSti⟩
  case ldfLdf =>
    exact exec_fetchInd2 read (fun _ x u => (u.putF (fregOf o.dst1) (singleToExtended x.1)).putF (fregOf o.dst2)
      (singleToExtended x.2)) rfl
  case ldiLdi => exact exec_fetchInd2 read (fun _ x u => (u.put (regOf o.dst1) x.1).put (regOf o.dst2) x.2) rfl
  case ldfStf =>
    exact exec_withStore (stored := (·.storedFloat o.src3)) read written
      (fun _ x u => u.putF (fregOf o.dst1) (singleToExtended x)) rfl
  case ldiSti =>
    exact exec_withStore (stored := (·.storedInt o.src3)) read written (fun _ x u => u.put (regOf o.dst1) x) rfl
  case stfStf => exact exec_storePair (·.storedFloat o.src1) (·.storedFloat o.src2) first second rfl
  case stiSti => exact exec_storePair (·.storedInt o.src1) (·.storedInt o.src2) first second rfl

/-- Settles O53: operation by operation, the value on the memory word, or on the register and the memory word. -/
theorem parallelInteger : Obligations.ParallelInteger := by
  intro s w u x t ovm
  refine ⟨fun o read written => ?one, fun o read written => ?two⟩
  case one =>
    intro d
    have result := fun i r => exec_storeResult (i := i) (dst := d) (r := r) (stored := (·.storedInt o.src3)) read written
    refine ⟨?absi, ?negi, ?not, ?fix⟩
    case absi => exact result _ _ (fun t => absInt t.ovm) rfl (absInt_eq _ _)
    case negi => exact result _ _ (fun t => subInt t.ovm false 0) rfl (subInt_false_zero _ _)
    case not => exact result _ _ (fun _ x => plainFlags (~~~x)) rfl (plainFlags_eq _)
    case fix => exact result _ _ (fun _ x => fixInt (singleToExtended x)) rfl rfl
  case two =>
    intro d a
    have result := fun i r (op : State → Word → Word → Word × Flags) => exec_storeResult (i := i) (dst := d) (r := r)
      (stored := (·.storedInt o.src3)) read written fun t => op t (t.get (regOf o.src1))
    refine ⟨?addi, ?subi, ?mpyi, ?and, ?or, ?xor, ?ash, ?lsh⟩
    case addi => exact result _ _ (fun t => addInt t.ovm false) rfl (addInt_false _ _ _)
    case subi => exact result _ _ (fun t a x => subInt t.ovm false x a) rfl (subInt_false _ _ _)
    case mpyi => exact result _ _ (fun t => mulInt t.ovm) rfl (mulInt_eq _ _ _)
    case and => exact result _ _ (fun _ a x => plainFlags (a &&& x)) rfl (plainFlags_eq _)
    case or => exact result _ _ (fun _ a x => plainFlags (a ||| x)) rfl (plainFlags_eq _)
    case xor => exact result _ _ (fun _ a x => plainFlags (a ^^^ x)) rfl (plainFlags_eq _)
    case ash => exact result _ _ (fun _ a x => ashInt x a) rfl rfl
    case lsh => exact result _ _ (fun _ a x => lshInt x a) rfl rfl

/-- Settles O54: as O53, in floating point; the values are those of the definitions on exact numbers. -/
theorem parallelFloat : Obligations.ParallelFloat := by
  intro s w u x t b
  refine ⟨fun o read written => ?one, fun o read written => ?two⟩
  case one =>
    intro d
    have result := fun i r =>
      exec_storeResultF (i := i) (dst := d) (r := r) (stored := (·.storedFloat o.src3)) read written
    refine ⟨?absf, ?negf, ?float, ?frieee, ?toieee⟩
    case absf => exact result _ _ (fun _ x => floatAbs (singleToExtended x)) rfl rfl
    case negf => exact result _ _ (fun _ x => floatNeg (singleToExtended x)) rfl rfl
    case float => exact result _ _ (fun _ => floatInt) rfl rfl
    case frieee => exact result _ _ (fun _ => fromIeee) rfl rfl
    case toieee => exact result _ _ (fun _ x => toIeee (singleToExtended x)) rfl rfl
  case two =>
    intro d a
    have result := fun i r (op : Ext → Ext → Ext × Flags) => exec_storeResultF (i := i) (dst := d) (r := r)
      (stored := (·.storedFloat o.src3)) read written fun t x => op (t.getF (fregOf o.src1)) (singleToExtended x)
    refine ⟨?addf, ?subf, ?mpyf⟩
    case addf => exact result _ _ floatAdd rfl rfl
    case subf => exact result _ _ (fun a x => floatSub x a) rfl rfl
    case mpyf => exact result _ _ floatMul rfl rfl

/-- Settles O55: the pairs that P routes, their product and their sum or difference. -/
theorem multiplyAddPairs : Obligations.MultiplyAddPairs := by
  intro s u o x y read t pick p q flags i f ovm m n ia is fa fs
  refine ⟨?addi, ?subi, ?addf, ?subf⟩
  case addi => exact exec_mulAddI read (q := i) (fun t => addInt t.ovm false) rfl rfl (addInt_false _ _ _)
  case subi => exact exec_mulAddI read (q := i) (fun t => subInt t.ovm false) rfl rfl (subInt_false _ _ _)
  case addf => exact exec_mulAddF read (q := f) floatAdd rfl rfl
  case subf => exact exec_mulAddF read (q := f) floatSub rfl rfl
end

section
/-! PROOFS. Interrupt entry (O56) and its inverse, the return (O58): the acknowledge flag by flag, the CPU's turn at an
interrupt, and the entry where the vector table and the stack are on-chip. -/

namespace Sys2Proof.Machine

/-! ### The acknowledge (60 R652, R657) -/

/-- The interrupt of pin x, and the FLAG it has in IIF. -/
theorem flagBit_pin (x : Fin 4) : flagBit (3 + x.val) = some (4 * x.val + 2) := by
  revert x
  decide

theorem flagBit_internal {v : Nat} (low : 0x25 ≤ v) (high : v ≤ 0x2B) : flagBit v = some (v - 0x25 + 25) := by
  simp only [flagBit]
  rw [if_neg (by omega), if_neg (by omega), if_neg (by omega), if_pos ⟨low, high⟩]

section
variable (s : State) {v b : Nat}

/-- An interrupt of no level pin has its flag cleared. -/
theorem State.acknowledge_iif (bit : flagBit v = some b)
    (edge : ¬(3 ≤ v ∧ v ≤ 6 ∧ s.iif.getLsbD (4 * (v - 3) + 1) = true)) :
    (s.acknowledge v).iif = putBit s.iif b false := by
  simp only [State.acknowledge, bit, if_neg edge]

/-- A level pin has its request noted as acknowledged for the next step. -/
theorem State.acknowledge_ackPending (bit : flagBit v = some b)
    (level : 3 ≤ v ∧ v ≤ 6 ∧ s.iif.getLsbD (4 * (v - 3) + 1) = true) :
    (s.acknowledge v).ackPending = putBit s.ackPending (v - 3) true := by
  simp only [State.acknowledge, bit, if_pos level]

/-- An interrupt that is none of a pin has its flag cleared. -/
theorem State.acknowledge_flag (bit : flagBit v = some b) (range : b < 32) (noPin : v < 3 ∨ 6 < v) :
    (s.acknowledge v).iif.getLsbD b = false := by
  rw [State.acknowledge_iif s bit (by omega), putBit_getLsbD _ _ _ _ range, if_pos rfl]

/-- TYPEx, found from the vector of its pin. -/
theorem State.iiofType_vector (x : Fin 4) : s.iif.getLsbD (4 * (3 + x.val - 3) + 1) = s.iiofType x := by
  rw [Nat.add_sub_cancel_left, State.iiofType]

/-- An edge pin has its flag cleared. -/
theorem State.acknowledge_edgePin (x : Fin 4) (edge : s.iiofType x = false) :
    (s.acknowledge (3 + x.val)).iif.getLsbD (4 * x.val + 2) = false := by
  rw [State.acknowledge_iif s (flagBit_pin x) fun ⟨_, _, level⟩ =>
    Bool.false_ne_true (edge.symm.trans ((s.iiofType_vector x).symm.trans level)), putBit_getLsbD _ _ _ _ (by omega),
    if_pos rfl]

theorem State.acknowledge_levelPin (x : Fin 4) (level : s.iiofType x = true) :
    (s.acknowledge (3 + x.val)).ackPending.getLsbD x.val = true := by
  rw [State.acknowledge_ackPending s (flagBit_pin x) ⟨by omega, by omega, (s.iiofType_vector x).trans level⟩,
    Nat.add_sub_cancel_left, putBit_getLsbD _ _ _ _ x.isLt, if_pos rfl]

end

/-! ### The CPU's turn at an interrupt -/

/-- The look at the inputs leaves the agenda alone, and an entry that has begun. -/
theorem State.sample_agenda (s : State) : s.sample.inputs = s.inputs ∧ s.sample.entering = s.entering := by
  unfold State.sample
  split <;> exact ⟨rfl, rfl⟩

/-- In whatever phase, where it is the CPU's turn, a step is that turn. -/
theorem step_of_cpuTurn {s : State} {rest : List Input} (turn : s.inputs = [] ∧ rest = [] ∨ s.inputs = .cpu :: rest) :
    step s = ({ s.sample with inputs := rest } : State).forward.cpuTurn := by
  have inputs : s.sample.inputs = s.inputs := s.sample_agenda.1
  unfold step State.turn
  rcases turn with ⟨empty, rfl⟩ | own
  · rw [inputs, empty]
    exact congrArg (fun l => ({ s.sample with inputs := l } : State).forward.cpuTurn) (inputs.trans empty)
  · rw [inputs, own]

section
variable {s t : State} {v : Nat}

theorem State.cpuTurn_of_taken (entering : s.entering = none) (taken : s.taken = some v) :
    s.cpuTurn = (s.acknowledge v).enter v := by
  simp only [State.cpuTurn, entering, taken]

theorem State.cpuTurn_of_entering (entering : s.entering = some v) : s.cpuTurn = s.enter v := by
  simp only [State.cpuTurn, entering]

theorem State.enter_of_ok (done : s.serve v = .ok () t) : s.enter v = .next t := by
  simp only [State.enter, done]

theorem State.enter_of_wait {w : Wait} (waits : s.serve v = .wait w) :
    s.enter v = .next { s with entering := some v, waiting := some w } := by
  simp only [State.enter, waits]

/-- A finished entry is over. -/
theorem State.serve_entering (done : s.serve v = .ok () t) : t.entering = none := by
  obtain ⟨a, u, read, entered⟩ := Res.bind_eq_ok done
  obtain ⟨_, w, pushed, last⟩ := Res.bind_eq_ok entered
  obtain ⟨_, _, _, _, _, rfl, -⟩ := memRead_shape read
  obtain ⟨_, _, _, _, _, rfl, -⟩ := memWrite_shape pushed
  cases last
  rfl

end

/-! ### The entry (60 R652, 92 D65) -/

/-- The state on which the accesses of an entry are made: one draw, the core running, nothing waiting. -/
def State.resumed (s : State) : State :=
  { s with draws := s.draws + 1, phase := .running, waiting := none, entering := none, busy := ⟨0, 0, 0⟩ }

/-- An entry whose vector is read and whose program counter is pushed goes to the vector. -/
theorem State.serve_of_ok {s t u : State} {v : Nat} {a : Word}
    (read : memRead .plain (vectorAddress s.ivtp (BitVec.ofNat 9 v)) s.resumed = .ok a t)
    (pushed : t.saveStatus.push t.pc = .ok () u) : s.serve v = .ok () (u.jump a) := by
  change (memRead .plain (vectorAddress s.ivtp (BitVec.ofNat 9 v)) s.resumed).bind _ = _
  rw [read, Res.bind_ok, pushed, Res.bind_ok]
  rfl

theorem State.serve_ram {s : State} {v : Nat}
    (table : region s.pins.romen (vectorAddress s.ivtp (BitVec.ofNat 9 v)) = .ram)
    (stack : region s.pins.romen (s.sp + 1) = .ram) : s.serve v =
      .ok () (State.jump
        { s.resumed.saveStatus with sp := s.sp + 1, mem := Memory.writeWord s.mem (s.sp + 1) s.pc }
        (Memory.readWord s.mem (vectorAddress s.ivtp (BitVec.ofNat 9 v)))) :=
  State.serve_of_ok (memRead_ram (s := s.resumed) table .plain)
    (memWrite_ram (s := { s.resumed.saveStatus with sp := s.sp + 1 }) stack .plain s.pc)

/-- The state behind the acknowledge, written as the fields that it changes. -/
theorem State.acknowledge_eq (s : State) (v : Nat) : s.acknowledge v =
    { s with claimed := (s.acknowledge v).claimed, iif := (s.acknowledge v).iif
             ackPending := (s.acknowledge v).ackPending } := by
  obtain ⟨claimed, iif, ackPending, shape⟩ := s.acknowledge_shape v
  rw [shape]

/-- The state that the entry of interrupt `v` leaves where its accesses are those of on-chip RAM. -/
def State.entered (s : State) (v : Nat) : State :=
  { s.resumed with
    claimed := (s.acknowledge v).claimed, iif := (s.acknowledge v).iif, ackPending := (s.acknowledge v).ackPending
    st := s.saveStatus.st, sp := s.sp + 1, mem := Memory.writeWord s.mem (s.sp + 1) s.pc
    pc := Memory.readWord s.mem (vectorAddress s.ivtp (BitVec.ofNat 9 v)) }

section
variable (s : State) (v : Nat)

@[simp] theorem State.entered_sp : (s.entered v).sp = s.sp + 1 := rfl
@[simp] theorem State.entered_st : (s.entered v).st = s.saveStatus.st := rfl
@[simp] theorem State.entered_mem : (s.entered v).mem = Memory.writeWord s.mem (s.sp + 1) s.pc := rfl
@[simp] theorem State.entered_pins : (s.entered v).pins = s.pins := rfl
@[simp] theorem State.entered_delay : (s.entered v).delay = s.delay := rfl

end

section
variable {s : State} {v : Nat}

theorem State.interrupt_ram (table : region s.pins.romen (vectorAddress s.ivtp (BitVec.ofNat 9 v)) = .ram)
    (stack : region s.pins.romen (s.sp + 1) = .ram) : s.interrupt v = .ok () (s.entered v) := by
  rw [State.interrupt, State.acknowledge_eq]
  exact State.serve_ram table stack

/-- What a pop in the handler reads is the program counter that the entry has pushed. -/
theorem State.memRead_entered (wf : Memory.wf s.mem = true) (stack : region s.pins.romen (s.sp + 1) = .ram) :
    memRead .plain (s.entered v).sequenced.sp (s.entered v).sequenced = .ok s.pc (s.entered v).sequenced := by
  have ram : region (s.entered v).sequenced.pins.romen (s.entered v).sequenced.sp = .ram := by simpa using stack
  rw [memRead_ram ram, State.sequenced_sp, State.sequenced_mem, State.entered_sp, State.entered_mem,
    Memory.readWord_writeWord wf]

/-- Sequencing the handler's first instruction leaves the saved status, outside repeats and slots. -/
theorem State.entered_sequenced_st (free : s.delay = none) (off : s.repeatMode = false) :
    (s.entered v).sequenced.st = s.saveStatus.st := by
  have outside : (s.entered v).repeatMode = false := (s.saveStatus_st_getLsbD 8).trans off
  rw [State.sequenced_plain ((s.entered_delay v).trans free) outside]
  rfl

/-- A pop there gives the interrupted program counter back with SP as it was, and leaves the saved status. -/
theorem State.pop_entered (wf : Memory.wf s.mem = true) (stack : region s.pins.romen (s.sp + 1) = .ram)
    (free : s.delay = none) (off : s.repeatMode = false) :
    ∃ u, (s.entered v).sequenced.pop = .ok s.pc u ∧ u.sp = s.sp ∧ u.st = s.saveStatus.st := by
  refine ⟨_, State.pop_of_read (State.memRead_entered wf stack), ?_, State.entered_sequenced_st free off⟩
  simp only [State.sequenced_sp, State.entered_sp, BitVec.add_sub_cancel]

/-- Restoring the status undoes saving it, but for PCF and PGIE. -/
theorem State.restoreStatus_saveStatus {t : State} (saved : t.st = s.saveStatus.st) {b : Nat} (other : b ∉ [9, 14]) :
    t.restoreStatus.st.getLsbD b = s.st.getLsbD b := by
  simp only [List.mem_cons, List.not_mem_nil, or_false, not_or] at other
  obtain ⟨pcf, pgie⟩ := other
  rw [State.restoreStatus_st_getLsbD, saved]
  simp only [State.saveStatus_st_getLsbD]
  by_cases cf : b = 10
  · simp [cf]
  · by_cases gie : b = 13
    · simp [gie]
    · simp [cf, gie, pcf, pgie]

end

end Sys2Proof.Machine

open Sys2Proof Sys2Proof.Machine

/-- Settles O56: the CPU's turn at an interrupt, one taken now or one whose entry has begun, and then `State.entered`. -/
theorem interruptEntry : Obligations.InterruptEntry := by
  refine ⟨?step, ?entry⟩
  case step =>
    intro s rest v x turn
    have entering : x.entering = s.entering := (State.forward_entering _).trans s.sample_agenda.2
    rw [step_of_cpuTurn turn]
    refine ⟨fun idle taken => ?_, fun begun => ?_⟩
    · rw [State.cpuTurn_of_taken (entering.trans idle) taken]
      exact ⟨fun t => State.enter_of_ok, fun w => State.enter_of_wait⟩
    · rw [State.cpuTurn_of_entering (entering.trans begun)]
      exact ⟨fun t done => ⟨State.enter_of_ok done, State.serve_entering done⟩, fun w => State.enter_of_wait⟩
  case entry =>
    intro s v a table stack
    have bit := State.saveStatus_st_getLsbD s
    refine ⟨s.entered v, State.interrupt_ram table stack, rfl, rfl, rfl, rfl, bit 14, bit 9, bit 13, bit 10,
      fun b kept => ?kept, ?nmi, ?timer, fun low high => ?internal, ?edgePin, ?levelPin, rfl, rfl, rfl, rfl, rfl, rfl⟩
    case kept =>
      simp only [List.mem_cons, List.not_mem_nil, or_false, not_or] at kept
      obtain ⟨pcf, cf, gie, pgie⟩ := kept
      exact (bit b).trans (by rw [if_neg cf, if_neg gie, if_neg pcf, if_neg pgie])
    case nmi =>
      rintro rfl
      exact s.acknowledge_flag (v := 1) rfl (by omega) (by omega)
    case timer =>
      rintro rfl
      exact s.acknowledge_flag (v := 2) rfl (by omega) (by omega)
    case internal => exact s.acknowledge_flag (flagBit_internal low high) (by omega) (by omega)
    case edgePin =>
      rintro x rfl
      exact s.acknowledge_edgePin x
    case levelPin =>
      rintro x rfl
      exact s.acknowledge_levelPin x

/-- Settles O58: the pop reads back what the entry pushed, and the status restored is the one it saved. -/
theorem returnUndoesEntry : Obligations.ReturnUndoesEntry := by
  intro s t v wf delay off table stack entry
  rw [State.interrupt_ram table stack] at entry
  cases entry
  obtain ⟨u, popped, sp, saved⟩ := State.pop_entered (v := v) wf stack delay off
  have restored : ∀ b, b ∉ [9, 14] → u.restoreStatus.st.getLsbD b = s.st.getLsbD b := fun _ =>
    State.restoreStatus_saveStatus saved
  exact ⟨u.restoreStatus.jump s.pc, exec_retiCond_taken (c := .u) rfl popped, rfl, sp, restored 13 (by decide),
    restored 10 (by decide), restored⟩
end

section
/-! PROOFS. The FIFOs of a communication port as the CPU reaches them (O60): the addresses of a port, an access to a port while
the peripheral bus is free and while it is held, and then the FIFOs. -/

namespace Sys2Proof.Machine

/-! ### The block of a port (20 R105) -/

theorem peripheralRegion_port (k : Fin 6) {off : Nat} (low : off < 16) :
    peripheralRegion (0x40 + 16 * k.val + off) = .port k off := by
  have block : (0x40 + 16 * k.val + off) / 16 = k.val + 4 := by omega
  have word : (0x40 + 16 * k.val + off) % 16 = off := by omega
  have port : Fin.ofNat 6 (k.val + 4 - 4) = k := by simp
  simp only [peripheralRegion, block, word, port]
  exact if_pos (by omega)

/-- The sixteen words of port `k` stand from 0010 0040h + 10h·k on. -/
theorem region_port (romen : Bool) {a : Word} {k : Fin 6} {off : Nat} (low : off < 16)
    (address : a.toNat = 0x100040 + 16 * k.val + off) : region romen a = .port k off := by
  simp only [region, address]
  rw [if_neg (by omega), if_neg (by omega), if_neg (by omega), if_pos (by omega), ← peripheralRegion_port k low]
  exact congrArg peripheralRegion (by omega)

/-- The address of a port's register, as its block and its place in it. -/
theorem portRegister_toNat (k : Fin 6) (n : BitVec 2) :
    ((0x00100040 : Word) + BitVec.ofNat 32 (16 * k.val) + n.setWidth 32).toNat = 0x100040 + 16 * k.val + n.toNat := by
  have first : (0x00100040 : Word).toNat = 0x100040 := rfl
  have := k.isLt
  have := n.isLt
  simp only [BitVec.toNat_add, BitVec.toNat_ofNat, BitVec.toNat_setWidth, first]
  omega

theorem region_portRegister (romen : Bool) (k : Fin 6) (n : BitVec 2) :
    region romen ((0x00100040 : Word) + BitVec.ofNat 32 (16 * k.val) + n.setWidth 32) = .port k n.toNat :=
  region_port romen (n.isLt.trans (by decide)) (portRegister_toNat k n)

/-! ### An access to a port -/

theorem Res.bind_pure {α : Type} (x : Res α) : (x.bind fun v t => .ok v t) = x := by cases x <;> rfl

section
variable {s : State} {k : Access} {a : Word} {p : Fin 6} {off : Nat}

theorem State.blocked_port (port : region s.pins.romen a = .port p off) : s.blocked k a = s.peripheralHeld k := by
  simp [State.blocked, port, Region.peripheral]

/-- An access to a port shows no cycle. -/
theorem State.shows_port (port : region s.pins.romen a = .port p off) (w : Option Word) (t : State) :
    s.shows k a w t = t :=
  State.shows_inner (by simp [State.onBus, port, Region.external]) k w t

theorem memRead_of_blocked (blocked : s.blocked k a = true) : memRead k a s = .wait .peripheral := if_pos blocked

theorem memWrite_of_blocked (blocked : s.blocked k a = true) (v : Word) : memWrite k a v s = .wait .peripheral :=
  if_pos blocked

/-- With the peripheral bus free a read of a port is that of its registers. -/
theorem memRead_port (port : region s.pins.romen a = .port p off) (free : s.peripheralHeld k = false) :
    memRead k a s = s.portRead a p off := by
  have reads : readAt k a s = s.portRead a p off := by simp only [readAt, port]
  rw [memRead, State.blocked_port port, free, reads]
  simp only [State.shows_port port]
  exact Res.bind_pure _

/-- With the peripheral bus free a write of a port is that of its registers. -/
theorem memWrite_port (port : region s.pins.romen a = .port p off) (free : s.peripheralHeld k = false) (v : Word) :
    memWrite k a v s = s.portWrite a v p off := by
  have writes : writeAt k a v s = s.portWrite a v p off := by simp only [writeAt, port]
  rw [memWrite, State.blocked_port port, free, writes]
  simp only [State.shows_port port]
  exact Res.bind_pure _

end

/-! ### The FIFOs (65 R510, R513) -/

section
variable {s : State} {k : Fin 6}

theorem State.fifoRead_of_no_grant (alone : s.dev.busGrant = false) : s.fifoRead = .wait .fifo := by
  simp [State.fifoRead, alone]

theorem State.fifoWrite_of_no_grant (alone : s.dev.busGrant = false) : s.fifoWrite = .wait .fifo := by
  simp [State.fifoWrite, alone]

theorem State.portRead_inFifo_cons {x : Word} {xs : List Word} (word : (s.dev.ports[k]).inFifo = x :: xs) (a : Word) :
    s.portRead a k 1 = s.readOk x (s.dev.setPort k (s.dev.ports[k]).pop) := by
  simp only [State.portRead, word]

theorem State.portRead_inFifo_nil (empty : (s.dev.ports[k]).inFifo = []) (a : Word) :
    s.portRead a k 1 = s.fifoRead := by
  simp only [State.portRead, empty]

theorem State.portWrite_outFifo_room (room : (s.dev.ports[k]).outFifo.length < 8) (a v : Word) :
    s.portWrite a v k 2 = s.writeOk (s.dev.setPort k ((s.dev.ports[k]).push v)) :=
  if_pos (decide_eq_true room)

theorem State.portWrite_outFifo_full (full : 8 ≤ (s.dev.ports[k]).outFifo.length) (a v : Word) :
    s.portWrite a v k 2 = s.fifoWrite :=
  if_neg (by simpa [Port.ocRdy] using full)

end

@[simp] theorem Port.pop_inFifo (p : Port) : p.pop.inFifo = p.inFifo.tail := Port.arbitrate_inFifo _
@[simp] theorem Port.pop_outFifo (p : Port) : p.pop.outFifo = p.outFifo := Port.arbitrate_outFifo _
@[simp] theorem Port.push_inFifo (p : Port) (v : Word) : (p.push v).inFifo = p.inFifo := Port.arbitrate_inFifo _
@[simp] theorem Port.push_outFifo (p : Port) (v : Word) : (p.push v).outFifo = p.outFifo ++ [v] :=
  Port.arbitrate_outFifo _

@[simp] theorem Devices.setPort_same (d : Devices) (k : Fin 6) (p : Port) : (d.setPort k p).ports[k] = p := by
  simp [Devices.setPort]

/-- An input port that is neither full nor halted takes an arriving word. -/
theorem Port.receive_inFifo {p : Port} (input : p.input = true) (running : p.ich = false) (room : p.inFifo.length < 8)
    (v : Word) : (p.receive v).inFifo = p.inFifo ++ [v] := by
  have takes : (p.input && !p.icFull && (!p.ich || p.grace)) = true := by simp [Port.icFull, input, running, room]
  rw [Port.receive, if_pos takes]

end Sys2Proof.Machine

open Sys2Proof Sys2Proof.Machine

/-- Settles O60: an access to a port, its bus free or held, and then the FIFO with a word or room, or without. -/
theorem portFifos : Obligations.PortFifos := by
  intro s k v
  have port := region_portRegister s.pins.romen k
  refine ⟨fun held n => ?held, fun free alone => ⟨fun x xs word => ?oldest, fun empty => ?empty, fun room => ?append,
    fun full => ?full⟩, fun input running room => Port.receive_inFifo input running room v⟩
  case held =>
    have blocked := (State.blocked_port (k := .plain) (port n)).trans held
    exact ⟨memRead_of_blocked blocked, memWrite_of_blocked blocked v⟩
  case oldest =>
    refine ⟨(s.dev.ports[k]).pop, by rw [Port.pop_inFifo, word, List.tail_cons], Port.pop_outFifo _, ?_⟩
    exact (memRead_port (k := .plain) (port 1) free).trans (State.portRead_inFifo_cons word _)
  case empty =>
    exact (memRead_port (k := .plain) (port 1) free).trans
      ((State.portRead_inFifo_nil empty _).trans (State.fifoRead_of_no_grant alone))
  case append =>
    refine ⟨{ s with dev := s.dev.setPort k ((s.dev.ports[k]).push v) }, ?_, ?_, ?_⟩
    · exact (memWrite_port (k := .plain) (port 2) free v).trans (State.portWrite_outFifo_room room _ v)
    · rw [Devices.setPort_same, Port.push_outFifo]
    · rw [Devices.setPort_same, Port.push_inFifo]
  case full =>
    exact (memWrite_port (k := .plain) (port 2) free v).trans
      ((State.portWrite_outFifo_full full _ v).trans (State.fifoWrite_of_no_grant alone))
end

section
/-! PROOFS. The commutator as the CPU reaches it (O59): its two addresses, what an access to RS and to RC does by the owner,
and an access that reaches it through the local bus. -/

namespace Sys2Proof.Machine

/-! ### The semaphore and the commutation register (20 R104) -/

theorem region_semaphore (romen : Bool) : region romen 0x00300000 = .commutator false := by cases romen <;> rfl

theorem region_commutation (romen : Bool) : region romen 0x00300001 = .commutator true := by cases romen <;> rfl

/-! ### RS and RC by the owner (66 R561, R562) -/

section
variable {s : State} {v : Word}

theorem State.commutatorRead_semaphore_plain : s.commutatorRead .plain false = .ok 1 s := rfl

/-- RS stays with the other core. -/
theorem State.commutatorRead_semaphore_refused (other : s.dev.owner = .other) :
    s.commutatorRead .interlocked false = .ok 1 s := by
  simp [State.commutatorRead, other, State.readOk]

/-- RS goes to this core where it is free, and stays with it where this core holds it. -/
theorem State.commutatorRead_semaphore_granted (granted : s.dev.owner ≠ .other) :
    s.commutatorRead .interlocked false = .ok 0 { s with dev := { s.dev with owner := .mine } } := by
  cases owner : s.dev.owner with
  | free | mine => simp [State.commutatorRead, owner, State.readOk]
  | other => exact absurd owner granted

theorem State.commutatorRead_commutation (k : Access) :
    s.commutatorRead k true = .ok (s.dev.rc.setWidth 32) s := rfl

theorem State.commutatorWrite_commutation_mine (mine : s.dev.owner = .mine) (k : Access) :
    s.commutatorWrite k v true = .ok () { s with dev := { s.dev with rc := v.setWidth 8 } } := by
  simp [State.commutatorWrite, mine, State.writeOk, BitVec.setWidth_eq_extractLsb']

theorem State.commutatorWrite_semaphore_mine (mine : s.dev.owner = .mine) :
    s.commutatorWrite .interlocked v false = .ok () { s with dev := { s.dev with owner := .free } } := by
  simp [State.commutatorWrite, mine, State.writeOk]

theorem State.commutatorWrite_commutation_not_mine (foreign : s.dev.owner ≠ .mine) (k : Access) :
    s.commutatorWrite k v true = .ok () s := by
  simp [State.commutatorWrite, foreign, State.writeOk]

theorem State.commutatorWrite_semaphore_not_mine (foreign : s.dev.owner ≠ .mine) :
    s.commutatorWrite .interlocked v false = .ok () s := by
  simp [State.commutatorWrite, foreign, State.writeOk]

end

/-! ### An access to the commutator under LSTRB0 (20 R124) -/

section
variable {s t : State} {k : Access} {a v : Word} {rc : Bool}

theorem State.blocked_commutator (place : region s.pins.romen a = .commutator rc) : s.blocked k a = false :=
  State.blocked_inner (by rw [place]; rfl) k

/-- A read that the commutator answers finishes with its word and shows its cycle. -/
theorem memRead_commutator (place : region s.pins.romen a = .commutator rc) (strobed : strobe0 s a = true)
    (read : s.commutatorRead k rc = .ok v t) : memRead k a s = .ok v (s.shows k a none t) := by
  have reads : readAt k a s = .ok v t := by simp only [readAt, place, strobed, if_true, read]
  simp [memRead, State.blocked_commutator place, reads]

/-- A write that the commutator takes finishes and shows its cycle. -/
theorem memWrite_commutator (place : region s.pins.romen a = .commutator rc) (strobed : strobe0 s a = true)
    (write : s.commutatorWrite k v rc = .ok () t) : memWrite k a v s = .ok () (s.shows k a (some v) t) := by
  have writes : writeAt k a v s = .ok () t := by simp only [writeAt, place, strobed, if_true, write]
  simp [memWrite, State.blocked_commutator place, writes]

end

/-- Settles O59: an access to RS or RC through the local bus, and what the commutator does with it by the owner. (In the
model's namespace: Mathlib has a `commutator` of its own.) -/
theorem commutator : Obligations.Commutator := by
  intro s v strobedRs strobedRc
  have rs := region_semaphore s.pins.romen
  have rc := region_commutation s.pins.romen
  refine ⟨?plain, fun other => ?refused, fun granted => ?granted, ?commutation, fun mine => ⟨?connects, ?releases⟩,
    fun foreign => ⟨?keepsRc, ?keepsRs⟩, fun k a w t => s.shows_shape t k a w⟩
  case plain => exact memRead_commutator rs strobedRs State.commutatorRead_semaphore_plain
  case refused => exact memRead_commutator rs strobedRs (State.commutatorRead_semaphore_refused other)
  case granted => exact memRead_commutator rs strobedRs (State.commutatorRead_semaphore_granted granted)
  case commutation => exact memRead_commutator rc strobedRc (State.commutatorRead_commutation .plain)
  case connects => exact memWrite_commutator rc strobedRc (State.commutatorWrite_commutation_mine mine .plain)
  case releases => exact memWrite_commutator rs strobedRs (State.commutatorWrite_semaphore_mine mine)
  case keepsRc => exact memWrite_commutator rc strobedRc (State.commutatorWrite_commutation_not_mine foreign .plain)
  case keepsRs => exact memWrite_commutator rs strobedRs (State.commutatorWrite_semaphore_not_mine foreign)

end Sys2Proof.Machine
end

section
/-! PROOFS. The state after reset: the registers that reset writes (O5), and the invariant it meets (O6). -/

namespace Sys2Proof.Machine

/-! ### The pins of IIF where no device stands in their place (10 R44, 66 R564) -/

/-- With the commutation register at its reset value no device is connected to either core. -/
theorem connectedTo_zero (core2 : Bool) (d : Device) : connectedTo 0 core2 d = false := by
  cases core2 <;> cases d <;> rfl

/-- The FLAG of an input whose device is not connected reads as the pin. -/
theorem State.iiofFlag_pin {s : State} {x : Fin 4} (func : s.iiofFunc x = false) (type : s.iiofType x = false)
    (alone : connectedTo s.dev.rc s.pins.core2 (iiofDevice x) = false) : s.iiofFlag x = s.pins.iiof.getLsbD x.val := by
  have output : s.iiofOutput x = false := by simp [State.iiofOutput, type]
  rw [State.iiofFlag_input s func type, State.iiofLevel_of_not_output s output, alone, if_neg Bool.false_ne_true]

/-- IIF as it reads where every FLAG shows its pin. -/
theorem State.get_iif_of_pins {s : State} (flag : ∀ x, s.iiofFlag x = s.pins.iiof.getLsbD x.val) :
    s.get .iif = putBit (putBit (putBit (putBit s.iif 2 (s.pins.iiof.getLsbD 0)) 6 (s.pins.iiof.getLsbD 1)) 10
      (s.pins.iiof.getLsbD 2)) 14 (s.pins.iiof.getLsbD 3) := by
  change s.readIif = _
  simp only [State.readIif, flag]
  rfl

/-- IIF is 0 after reset, so each pin is an input; and RC is 0, so no device stands in its place. -/
theorem State.reset_iiofFlag (p : Pins) (x : Fin 4) :
    ({ State.reset with pins := p } : State).iiofFlag x = p.iiof.getLsbD x.val :=
  State.iiofFlag_pin BitVec.getLsbD_zero BitVec.getLsbD_zero (connectedTo_zero p.core2 (iiofDevice x))

end Sys2Proof.Machine

open Sys2Proof Sys2Proof.Machine

/-- Settles O5: the registers as `State.reset` lists them, and IIF read with its four pins as inputs. -/
theorem resetRegisters : Obligations.ResetRegisters :=
  ⟨rfl, rfl, rfl, rfl, rfl, rfl, fun p => State.get_iif_of_pins (State.reset_iiofFlag p)⟩

/-- Settles O6: the clauses of the invariant at the reset values, memory with nothing listed and the devices sound. -/
theorem resetInvariant : Obligations.ResetInvariant := by
  refine ⟨?memory, ?ivtp, ?tvtp, ?status, ?flags, ?devices, ?lru⟩
  case memory => exact (rfl : Memory.wf [] = true)
  case ivtp | tvtp | flags => exact BitVec.zero_and
  case status => exact (by decide : (0x400 : Word) &&& ~~~stWritable = 0)
  case devices => exact Devices.reset_sound 0
  case lru => exact List.Perm.refl [0, 1, 2, 3]
end
